-- ==== Sys2Proof/Word.lean ====
section
/-!
DEFINITION. The fixed-width values of the block: all are unsigned and wrap (spec/00_scope.md R14; no signed
arithmetic exists anywhere).
-/
namespace Sys2Proof

/-- One 8-bit unit: a character, a captured byte, a data-bus sample, a half of a micro-word (R15, R123). -/
abbrev Byte := BitVec 8

/-- 16 bits: a micro-word (30_encoding.md R128) or a ROM word (10_state.md R62). -/
abbrev Word := BitVec 16

/-- A control-store index, the value of `upc` (10_state.md R40). -/
abbrev Index := BitVec 6

/-- A ROM word address, the value of `ADDR` (10_state.md R41). -/
abbrev Address := BitVec 20

end Sys2Proof
end

