-- ==== Sys2Proof/Syntax.lean ====
section
/-!
DEFINITION. The micro-operations, one constructor per row of spec/opcode_table.json (30_encoding.md R129).
TX_LOAD has three rows there, one per message selector, and so three constructors here.
-/
namespace Sys2Proof

/-- The rows of the opcode table. The operand of a loop micro-op is its whole `IMM` byte; the target is its low six
bits and the upper two must be 0 (R130), which `Instr.WellFormed` checks. -/
inductive Instr where
  /-- CE_ON, 0x0100: assert chip-enable (41_bus_read.md R201). -/
  | ceOn
  /-- CE_OFF, 0x0200: de-assert chip-enable (R202). -/
  | ceOff
  /-- OE_ON, 0x0300: assert output-enable (R203). -/
  | oeOn
  /-- OE_OFF, 0x0400: de-assert output-enable (R204). -/
  | oeOff
  /-- STB_H, 0x0800: strobe for the high byte (R205). -/
  | stbH
  /-- STB_L, 0x0900: strobe for the low byte (R206). -/
  | stbL
  /-- DRV_LO, 0x0A00: drive address bits 7..0 (R207). -/
  | drvLo
  /-- DRV_MID, 0x0B00: drive address bits 15..8 (R208). -/
  | drvMid
  /-- DRV_HI, 0x0C00: drive address bits 19..16 (R209). -/
  | drvHi
  /-- SETTLE, 0x1000: wait the timing margin (R210). -/
  | settle
  /-- SMP_H, 0x1100: sample to `CAP[2*WORD]` (R211). -/
  | smpH
  /-- SMP_L, 0x1200: sample to `CAP[2*WORD+1]` (R212). -/
  | smpL
  /-- AINC, 0x1300: increment the running address (R213). -/
  | ainc
  /-- SER_INIT, 0x2000: initialise the transmitter (40_transmit_pipeline.md R162). -/
  | serInit
  /-- TX_CLAIM, 0x2100: spin while busy (R163). -/
  | txClaim
  /-- TX_LOAD BANNER, 0x2200 (R164). -/
  | txLoadBanner
  /-- TX_LOAD HEX, 0x2201 (R164). -/
  | txLoadHex
  /-- TX_LOAD CRLF, 0x2202 (R164). -/
  | txLoadCrlf
  /-- TX_WAIT_RDY, 0x2300: spin until the transmitter is ready (R165). -/
  | txWaitRdy
  /-- TX_PUSH0, 0x2400: push the message's first unit (R166). -/
  | txPush0
  /-- LOOP_WORD t, 0x30tt (42_sequencing.md R242). -/
  | loopWord (imm : Byte)
  /-- LOOP_TOK t, 0x31tt (R243). -/
  | loopTok (imm : Byte)
  /-- LOOP_ROW t, 0x32tt (R244). -/
  | loopRow (imm : Byte)
  /-- IDLE, 0x3F00 (R245). -/
  | idle
  /-- TXC, 0x4000: one invocation of the completion handler (40_transmit_pipeline.md R167); it is run by the
  handler agent and is illegal in the control store (30_encoding.md R131). -/
  | txc
  deriving DecidableEq, Repr

end Sys2Proof
end

