-- ==== Sys2Proof/WellFormed.lean ====
section
/-!
DEFINITION. Which micro-ops have an encoding, and which of them may stand in the control store
(30_encoding.md R130, R131).
-/
namespace Sys2Proof

/-- `IMM[7:6] = 0`: the byte is a branch target (R130). -/
abbrev IsTarget (imm : Byte) : Prop := imm.extractLsb' 6 2 = 0#2

/-- The operand checks of R130 and R131 that the syntax leaves open: a loop's `IMM[7:6]` is 0. -/
def Instr.WellFormed (i : Instr) : Prop :=
  match i with
  | .loopWord imm => IsTarget imm
  | .loopTok imm => IsTarget imm
  | .loopRow imm => IsTarget imm
  | .ceOn | .ceOff | .oeOn | .oeOff | .stbH | .stbL | .drvLo | .drvMid | .drvHi | .settle | .smpH | .smpL | .ainc
  | .serInit | .txClaim | .txLoadBanner | .txLoadHex | .txLoadCrlf | .txWaitRdy | .txPush0 | .idle | .txc => True

/-- The same check as a Boolean, for evaluation. -/
def Instr.wellFormed (i : Instr) : Bool :=
  match i with
  | .loopWord imm => imm.extractLsb' 6 2 == 0#2
  | .loopTok imm => imm.extractLsb' 6 2 == 0#2
  | .loopRow imm => imm.extractLsb' 6 2 == 0#2
  | .ceOn | .ceOff | .oeOn | .oeOff | .stbH | .stbL | .drvLo | .drvMid | .drvHi | .settle | .smpH | .smpL | .ainc
  | .serInit | .txClaim | .txLoadBanner | .txLoadHex | .txLoadCrlf | .txWaitRdy | .txPush0 | .idle | .txc => true

/-- May the micro-op stand in the control store? TXC may not: it is the handler's action and is never sequenced
(R131). -/
def Instr.storable (i : Instr) : Bool := i.wellFormed && !(i == .txc)

end Sys2Proof
end

