-- ==== Sys2Proof/Decode.lean ====
section
/-!
DEFINITION. The micro-word: `OP = word[15:8]`, `IMM = word[7:0]` (30_encoding.md R128), its decoder (R129 to R132),
total on 16-bit words and naming why it rejects one, and the encoder written from the same table.
-/
namespace Sys2Proof

/-- Why a word is illegal, one constructor per clause of R131. -/
inductive Illegal where
  /-- `OP` is not in the table of R129. -/
  | unlistedOpcode (op : Byte)
  /-- `IMM` is not 0x00 for a micro-op whose `IMM` must be 0. -/
  | nonzeroOperand (imm : Byte)
  /-- TX_LOAD with a selector above 0x02. -/
  | selectorRange (imm : Byte)
  /-- A loop micro-op with `IMM[7:6]` not 0. -/
  | targetRange (imm : Byte)
  /-- TXC fetched from the control store. -/
  | handlerInStore
  deriving DecidableEq, Repr

/-- `OP = word[15:8]` (R128). -/
def opField (w : Word) : Byte := w.extractLsb' 8 8
/-- `IMM = word[7:0]` (R128). -/
def immField (w : Word) : Byte := w.extractLsb' 0 8
/-- The micro-word with the two given fields (R128). -/
def packWord (op imm : Byte) : Word := op ++ imm

/-- A micro-op whose `IMM` must be 0x00 (R130). -/
def decodePlain (i : Instr) (imm : Byte) : Except Illegal Instr :=
  if imm = 0x00#8 then .ok i else .error (.nonzeroOperand imm)

/-- TX_LOAD: `IMM` is the message selector of R126 (R130). -/
def decodeLoad (imm : Byte) : Except Illegal Instr :=
  if imm = 0x00#8 then .ok .txLoadBanner
  else if imm = 0x01#8 then .ok .txLoadHex
  else if imm = 0x02#8 then .ok .txLoadCrlf
  else .error (.selectorRange imm)

/-- A loop micro-op: `IMM[7:6]` must be 0 (R130). -/
def decodeLoop (i : Byte → Instr) (imm : Byte) : Except Illegal Instr :=
  if IsTarget imm then .ok (i imm) else .error (.targetRange imm)

/-- The opcode map of R129 over the two fields. -/
def decodeFields (op imm : Byte) : Except Illegal Instr :=
  if op = 0x01#8 then decodePlain .ceOn imm
  else if op = 0x02#8 then decodePlain .ceOff imm
  else if op = 0x03#8 then decodePlain .oeOn imm
  else if op = 0x04#8 then decodePlain .oeOff imm
  else if op = 0x08#8 then decodePlain .stbH imm
  else if op = 0x09#8 then decodePlain .stbL imm
  else if op = 0x0A#8 then decodePlain .drvLo imm
  else if op = 0x0B#8 then decodePlain .drvMid imm
  else if op = 0x0C#8 then decodePlain .drvHi imm
  else if op = 0x10#8 then decodePlain .settle imm
  else if op = 0x11#8 then decodePlain .smpH imm
  else if op = 0x12#8 then decodePlain .smpL imm
  else if op = 0x13#8 then decodePlain .ainc imm
  else if op = 0x20#8 then decodePlain .serInit imm
  else if op = 0x21#8 then decodePlain .txClaim imm
  else if op = 0x22#8 then decodeLoad imm
  else if op = 0x23#8 then decodePlain .txWaitRdy imm
  else if op = 0x24#8 then decodePlain .txPush0 imm
  else if op = 0x30#8 then decodeLoop .loopWord imm
  else if op = 0x31#8 then decodeLoop .loopTok imm
  else if op = 0x32#8 then decodeLoop .loopRow imm
  else if op = 0x3F#8 then decodePlain .idle imm
  else if op = 0x40#8 then decodePlain .txc imm
  else .error (.unlistedOpcode op)

/-- The micro-op a 16-bit word stands for in the opcode table (R129, R131), TXC included. -/
def decode (w : Word) : Except Illegal Instr := decodeFields (opField w) (immField w)

/-- The micro-op of a word fetched from the control store: there TXC is illegal too (R131). -/
def decodeFetched (w : Word) : Except Illegal Instr :=
  match decode w with
  | .ok i => if i = .txc then .error .handlerInStore else .ok i
  | .error e => .error e

/-- The opcode of a micro-op (R129). -/
def Instr.opcode (i : Instr) : Byte :=
  match i with
  | .ceOn => 0x01#8
  | .ceOff => 0x02#8
  | .oeOn => 0x03#8
  | .oeOff => 0x04#8
  | .stbH => 0x08#8
  | .stbL => 0x09#8
  | .drvLo => 0x0A#8
  | .drvMid => 0x0B#8
  | .drvHi => 0x0C#8
  | .settle => 0x10#8
  | .smpH => 0x11#8
  | .smpL => 0x12#8
  | .ainc => 0x13#8
  | .serInit => 0x20#8
  | .txClaim => 0x21#8
  | .txLoadBanner => 0x22#8
  | .txLoadHex => 0x22#8
  | .txLoadCrlf => 0x22#8
  | .txWaitRdy => 0x23#8
  | .txPush0 => 0x24#8
  | .loopWord _ => 0x30#8
  | .loopTok _ => 0x31#8
  | .loopRow _ => 0x32#8
  | .idle => 0x3F#8
  | .txc => 0x40#8

/-- The `IMM` byte of a micro-op (R126, R130). -/
def Instr.operand (i : Instr) : Byte :=
  match i with
  | .txLoadBanner => 0x00#8
  | .txLoadHex => 0x01#8
  | .txLoadCrlf => 0x02#8
  | .loopWord imm => imm
  | .loopTok imm => imm
  | .loopRow imm => imm
  | .ceOn | .ceOff | .oeOn | .oeOff | .stbH | .stbL | .drvLo | .drvMid | .drvHi | .settle | .smpH | .smpL | .ainc
  | .serInit | .txClaim | .txWaitRdy | .txPush0 | .idle | .txc => 0x00#8

/-- The micro-word of a micro-op (R128, R129). -/
def encode (i : Instr) : Word := packWord i.opcode i.operand

/-- The host's numbering of an instruction's bits: the one 16-bit word, bit 0 its least significant bit (R14, R133).
Bits above `nbits` are 0. -/
def wordOfBits (nbits w : Nat) : Word := BitVec.ofNat 16 (w % 2 ^ nbits)

/-- What the decoder reads from an instruction whose bits are `w`, as spec/opcode_table.json numbers them. -/
def decodeTableWord (nbits w : Nat) : Option Instr :=
  match decode (wordOfBits nbits w) with
  | .ok i => some i
  | .error _ => none

/-! ### The assembler (R134) -/

/-- The mnemonic of a micro-op (R129, R134). -/
def Instr.mnemonic (i : Instr) : String :=
  match i with
  | .ceOn => "CE_ON"
  | .ceOff => "CE_OFF"
  | .oeOn => "OE_ON"
  | .oeOff => "OE_OFF"
  | .stbH => "STB_H"
  | .stbL => "STB_L"
  | .drvLo => "DRV_LO"
  | .drvMid => "DRV_MID"
  | .drvHi => "DRV_HI"
  | .settle => "SETTLE"
  | .smpH => "SMP_H"
  | .smpL => "SMP_L"
  | .ainc => "AINC"
  | .serInit => "SER_INIT"
  | .txClaim => "TX_CLAIM"
  | .txLoadBanner => "TX_LOAD"
  | .txLoadHex => "TX_LOAD"
  | .txLoadCrlf => "TX_LOAD"
  | .txWaitRdy => "TX_WAIT_RDY"
  | .txPush0 => "TX_PUSH0"
  | .loopWord _ => "LOOP_WORD"
  | .loopTok _ => "LOOP_TOK"
  | .loopRow _ => "LOOP_ROW"
  | .idle => "IDLE"
  | .txc => "TXC"

/-- The operand of a line of a micro-program (R134). -/
inductive AsmOperand where
  | none
  /-- `BANNER`, `HEX` or `CRLF`, the operand of TX_LOAD. -/
  | selector (name : String)
  /-- A label, the operand of a loop micro-op. -/
  | label (name : String)
  /-- A control-store index, the operand of a loop micro-op. -/
  | index (n : Nat)
  deriving DecidableEq, Repr

/-- The control-store index a loop's operand names; `labels` lists the program's labels (R134). -/
def asmTarget (labels : List (String × Nat)) (o : AsmOperand) : Option Byte :=
  match o with
  | .index n => if n < 64 then some (BitVec.ofNat 8 n) else .none
  | .label l =>
    match labels.lookup l with
    | some n => if n < 64 then some (BitVec.ofNat 8 n) else .none
    | .none => .none
  | .selector _ => .none
  | .none => .none

/-- The micro-ops that take no operand and may appear in a micro-program (R129, R134: TXC may not). -/
def plainOps : List Instr :=
  [.ceOn, .ceOff, .oeOn, .oeOff, .stbH, .stbL, .drvLo, .drvMid, .drvHi, .settle, .smpH, .smpL, .ainc, .serInit,
   .txClaim, .txWaitRdy, .txPush0, .idle]

/-- One line of a micro-program, assembled (R134); no value for a line the syntax does not admit. -/
def assemble (labels : List (String × Nat)) (mnemonic : String) (o : AsmOperand) : Option Instr :=
  if mnemonic = "TX_LOAD" then
    if o = .selector "BANNER" then some .txLoadBanner
    else if o = .selector "HEX" then some .txLoadHex
    else if o = .selector "CRLF" then some .txLoadCrlf
    else .none
  else if mnemonic = "LOOP_WORD" then (asmTarget labels o).map .loopWord
  else if mnemonic = "LOOP_TOK" then (asmTarget labels o).map .loopTok
  else if mnemonic = "LOOP_ROW" then (asmTarget labels o).map .loopRow
  else if o = .none then plainOps.find? (fun i => i.mnemonic == mnemonic)
  else .none

/-- The character of a hex digit in a listing (upper case, as R134 and R246 write them). -/
def listingDigit (n : Nat) : Char := "0123456789ABCDEF".toList.getD (n % 16) '0'

/-- `digits` hex digits of `n`. -/
def listingHex (digits n : Nat) : List Char :=
  match digits with
  | 0 => []
  | d + 1 => listingHex d (n / 16) ++ [listingDigit n]

/-- The operand of a micro-op as a listing writes it (R134). -/
def Instr.operandText (i : Instr) : String :=
  match i with
  | .txLoadBanner => " BANNER"
  | .txLoadHex => " HEX"
  | .txLoadCrlf => " CRLF"
  | .loopWord imm => " 0x" ++ String.ofList (listingHex 2 imm.toNat)
  | .loopTok imm => " 0x" ++ String.ofList (listingHex 2 imm.toNat)
  | .loopRow imm => " 0x" ++ String.ofList (listingHex 2 imm.toNat)
  | .ceOn | .ceOff | .oeOn | .oeOff | .stbH | .stbL | .drvLo | .drvMid | .drvHi | .settle | .smpH | .smpL | .ainc
  | .serInit | .txClaim | .txWaitRdy | .txPush0 | .idle | .txc => ""

/-- One line of a listing, `uu: WWWW  MNEMONIC operand` (R134). -/
def listingLine (u : BitVec 6) (i : Instr) : String :=
  String.ofList (listingHex 2 u.toNat) ++ ": " ++ String.ofList (listingHex 4 (encode i).toNat) ++ "  " ++ i.mnemonic
    ++ i.operandText

end Sys2Proof
end

