-- ==== Sys2Proof/Machine/Program.lean ====
section
/-!
DEFINITION. The fixed micro-program of the control store (42_sequencing.md R246), as words and as micro-ops, and the
pseudo-operations it is built from (30_encoding.md R135).
-/
namespace Sys2Proof.Machine

/-- Micro-words 0x00 to 0x1E of the control store (R246). -/
def programWords : List Word :=
  [0x2000#16, 0x2100#16, 0x2200#16, 0x2300#16, 0x2400#16,
   0x0100#16, 0x0300#16,
   0x0A00#16, 0x0B00#16, 0x0C00#16, 0x0800#16, 0x1000#16, 0x1100#16, 0x0900#16, 0x1000#16, 0x1200#16, 0x1300#16,
   0x3007#16,
   0x0200#16, 0x0400#16,
   0x2100#16, 0x2201#16, 0x2300#16, 0x2400#16, 0x3114#16,
   0x2100#16, 0x2202#16, 0x2300#16, 0x2400#16, 0x3205#16,
   0x3F00#16]

/-- Micro-word `u` of the hardware's control store: 0x0000 from 0x1F on (10_state.md R61, R246). -/
def programWord (u : Nat) : Word := programWords.getD u 0x0000#16

/-- The hardware's control store by byte, `OP` before `IMM` (the order of the two bytes is the model's and no step
can see it: 20_memory.md R87, log entry 7). -/
def programByte (k : Nat) : Byte :=
  if k % 2 = 0 then opField (programWord (k / 2)) else immField (programWord (k / 2))

/-! ### Pseudo-operations (R135) -/

/-- The rest of a write operation around its TX_LOAD: `WRITE_RAW` and `WRITE_FMT` have the same expansion. -/
def writeOp (load : Instr) : List Instr := [.txClaim, load, .txWaitRdy, .txPush0]
/-- `WRITE_RAW BANNER`. -/
def writeRawBanner : List Instr := writeOp .txLoadBanner
/-- `WRITE_RAW HEX`. -/
def writeRawHex : List Instr := writeOp .txLoadHex
/-- `WRITE_FMT CRLF`. -/
def writeFmtCrlf : List Instr := writeOp .txLoadCrlf
/-- `READ_WORD`. -/
def readWord : List Instr :=
  [.drvLo, .drvMid, .drvHi, .stbH, .settle, .smpH, .stbL, .settle, .smpL, .ainc]
/-- `ENABLE`. -/
def enableOps : List Instr := [.ceOn, .oeOn]
/-- `RELEASE`. -/
def releaseOps : List Instr := [.ceOff, .oeOff]

/-- The fixed micro-program as micro-ops: initialise, banner, then the rows, each a word loop, a release, a token loop
and a line terminator (R246, R248 to R251). -/
def programOps : List Instr :=
  [.serInit] ++ writeRawBanner ++ enableOps ++ readWord ++ [.loopWord 0x07#8] ++ releaseOps
    ++ writeRawHex ++ [.loopTok 0x14#8] ++ writeFmtCrlf ++ [.loopRow 0x05#8] ++ [.idle]

end Sys2Proof.Machine
end

