-- ==== Sys2Proof/Config.lean ====
section
/-!
DEFINITION. What the spec fixes as a number, the parameters it leaves OPEN (00_scope.md R11), and the free values.
A constant declared `opaque` has no value Lean can see: what is proved holds whatever it is.
-/
namespace Sys2Proof

/-- The agents that take steps (00_scope.md R17). The fourth agent of R17, the ROM, answers `MemRead` and has no
step of its own. -/
inductive Agent where
  /-- SEQ, the micro-sequencer. -/
  | seq
  /-- TXC, the transmit-complete handler. -/
  | txc
  /-- SER, the serial transmitter (environment). -/
  | ser
  deriving DecidableEq, Repr, Inhabited

/-- The parameters a run holds fixed and some rule reads (00_scope.md R11, R13). They are plain data beside the
state, so that a test instance (92_eei_decisions.md D24, D33) can be written down; no step writes them. -/
structure Params where
  /-- `NUM_ROWS`: 65536 for the hardware, 1 to 65536 for a test instance (R13). -/
  numRows : Nat
  /-- `TXBUF_CAP`, OPEN, at least 11 (R11, D9). -/
  txbufCap : Nat
  /-- `T_MIN`, OPEN, above 0 (R11, D7). -/
  tMin : Nat
  /-- `T_SETTLE`, OPEN (R11). R12 allows a value below `T_MIN`: its samples are draws. -/
  tSettle : Nat
  deriving DecidableEq, Repr

/-- The constraints of R11 and R13 on the parameters (R12 leaves the two times unrelated). -/
abbrev Params.Legal (p : Params) : Prop :=
  1 ≤ p.numRows ∧ p.numRows ≤ 65536 ∧ 11 ≤ p.txbufCap ∧ 0 < p.tMin

/-! ### Numbers the document states (R11) -/

/-- `ADDR_SPACE`, the word addresses of the ROM. -/
def Config.addrSpace : Nat := 2 ^ 20
/-- `WORDS_PER_ROW`. -/
def Config.wordsPerRow : Nat := 16
/-- `BYTES_PER_ROW`. -/
def Config.bytesPerRow : Nat := 32
/-- `NUM_ROWS` of the hardware, `ADDR_SPACE / WORDS_PER_ROW` (R11, 42_sequencing.md R247). -/
def Config.numRows : Nat := Config.addrSpace / Config.wordsPerRow
/-- `CS_WORDS`, the micro-words of the control store (decided, D3). -/
def Config.csWords : Nat := 64

/-! ### OPEN parameters: free values (log entries 2, 3 and 12) -/

/-- How far the transmit buffer's capacity exceeds 11 characters (D9: OPEN, at least 11). -/
opaque Config.txbufSpare : Nat
/-- `TXBUF_CAP` of the hardware: any number from 11 up. -/
def Config.txbufCap : Nat := Config.txbufSpare + 11
/-- `T_MIN - 1`. -/
opaque Config.tMinPred : Nat
/-- `T_MIN` of the ROM device: any number above 0. -/
def Config.tMin : Nat := Config.tMinPred + 1
/-- `T_SETTLE`, the settle time the controller waits: any number (R12). -/
opaque Config.tSettle : Nat
/-- `T_POLL`, the sleep between busy-flag polls (D26): no rule depends on it. -/
opaque Config.tPoll : Nat
/-- `SER_RATE`, the serial bit rate (D16): no rule depends on it. -/
opaque Config.serRate : Nat
/-- `CE_ACTIVE_LEVEL`, the electrical level of an asserted chip-enable (D6). -/
opaque Config.ceActiveLevel : Bool
/-- `OE_ACTIVE_LEVEL`, the electrical level of an asserted output-enable (D6). -/
opaque Config.oeActiveLevel : Bool
/-- The contents of the ROM being read, by byte: byte `2 * a` is the high byte of the word at address `a`, byte
`2 * a + 1` its low byte (10_state.md R62; the numbering of the bytes is the model's, log entry 3). -/
opaque Config.romByte : Nat → Byte

/-- The hardware's own parameters. -/
def Config.params : Params :=
  { numRows := Config.numRows, txbufCap := Config.txbufCap, tMin := Config.tMin, tSettle := Config.tSettle }

/-! ### Free values that differ from use to use -/

/-- The `n`-th draw of a run: a data-bus sample under no law (20_memory.md R84; log entry 4). -/
opaque Config.draw : Nat → Byte
/-- The agent that gets the turn after step number `n`: a free choice of the schedule (60_exceptions.md R291; log
entry 5). -/
opaque Config.schedule : Nat → Agent
/-- How many steps an enabled TXC may at most be kept waiting, drawn at step number `n`: any finite number, which is
(F1) of 60_exceptions.md R292 (log entry 5). -/
opaque Config.txcPatience : Nat → Nat
/-- How many steps SEQ may at most be kept waiting, drawn at step number `n`: any finite number, which is (F2) of
60_exceptions.md R292 (log entry 5). -/
opaque Config.seqPatience : Nat → Nat

end Sys2Proof
end

