-- ==== Sys2Proof/Machine/State.lean ====
section
/-!
DEFINITION. The state of the block and of the environment it talks to (spec/10_state.md), as plain data, the fault
reasons (60_exceptions.md R281), and the reset state (70_reset_and_hazards.md R321).
-/
namespace Sys2Proof.Machine

/-- A byte space as (address, byte) pairs, addresses strictly rising, listing no byte that an unlisted address
already reads as (`Memory.wf`, in Ops.lean). -/
abbrev Memory := List Host.Cell

/-- The fault reasons of R281, with the information each records. They are the model's verdicts, not hardware
signals: each marks a condition the hardware gives no meaning (R280, R281). The raising step writes the reason to
`FAULT` and nothing else; every later step answers `Outcome.fault` with it, because no agent has a step (R282).
All seven are safe: the model stops where the chip would do something unknown. -/
inductive Fault where
  /-- Code 1: SEQ fetched an illegal micro-word (30_encoding.md R131). Safe: the spec gives the word no meaning. -/
  | illegalUop (upc : Index) (word : Word)
  /-- Code 2: TX_LOAD while `BUSY = 1` (40_transmit_pipeline.md R164). Safe: torn writes are not modelled. -/
  | loadWhileBusy (upc : Index)
  /-- Code 3: TX_LOAD of a message longer than the buffer (R164). Safe: the source has no guard. -/
  | msgOverflow (upc : Index) (length : Nat)
  /-- Code 4: TX_PUSH0 while `BUSY = 0` (R166). Safe: no message is loaded. -/
  | pushWithoutLoad (upc : Index)
  /-- Code 5: a push while the transmitter is not ready or holds a unit, by SEQ or TXC (60_exceptions.md R295).
  Safe: the effect of an overrun is unknown. -/
  | txOverrun (agent : Agent) (unit : Byte)
  /-- Code 6: a handler push with the cursor at or past the capacity (40_transmit_pipeline.md R167). Safe. -/
  | cursorRange (cursor : Nat)
  /-- Code 7: a SER shift while a notification is still latched (60_exceptions.md R297). Safe. -/
  | tcLost (unit : Byte)
  deriving DecidableEq, Repr

/-- The reasons `exec` gives no meaning. Safe: a refused step proves nothing. -/
inductive Refusal where
  /-- The arm of this mnemonic has no meaning yet (raised by Dispatch.lean only; no arm does now). -/
  | notModelled (mnemonic : String)
  deriving DecidableEq, Repr

/-- Everything the spec gives the machine. A Boolean is a 1-bit register, `true` for 1. -/
structure State where
  /-- `upc` (R40). -/
  upc : Index
  /-- `ADDR`, the running address (R41). -/
  addr : Address
  /-- `ROW` (R42). -/
  row : BitVec 16
  /-- `WORD` (R43). -/
  word : BitVec 4
  /-- `TOK` (R44). -/
  tok : BitVec 5
  /-- `CAP[0..31]`, the capture buffer (R45). -/
  cap : Vector Byte 32
  /-- `CE`, chip-enable, `true` when asserted (R46). -/
  ce : Bool
  /-- `OE`, output-enable, `true` when asserted (R46). -/
  oe : Bool
  /-- `STB`, the data-strobe line A-1 (R47). -/
  stb : Bool
  /-- `PIN_ALO` (R48). -/
  pinAlo : BitVec 8
  /-- `PIN_AMID` (R48). -/
  pinAmid : BitVec 8
  /-- `PIN_AHI` (R48, 90_conflicts.md C1). -/
  pinAhi : BitVec 4
  /-- `SETTLED`, hidden (R50). -/
  settled : Bool
  /-- `STB_STALE`, hidden (R68). -/
  stbStale : Bool
  /-- `TXBUF[0..TXBUF_CAP-1]` by index (R51); an unlisted index reads 0x00 (log entry 1). -/
  txbuf : Memory
  /-- `BUSY` (R52). -/
  busy : Bool
  /-- `PENDING` (R53). -/
  pending : Nat
  /-- `CURSOR` (R54). -/
  cursor : Nat
  /-- `IM`, the handler mask (R55). -/
  im : Bool
  /-- `SER_ON` (R56). -/
  serOn : Bool
  /-- `READY` (R57). -/
  ready : Bool
  /-- `INFLIGHT` (R58). -/
  inflight : Option Byte
  /-- `TC_PEND` (R59). -/
  tcPend : Bool
  /-- `LINE`, the serial output stream, oldest unit first (R60). -/
  line : List Byte
  /-- `FAULT`, the sticky fault mark (R63). -/
  fault : Option Fault
  /-- The control store `CS`, by byte: byte `2 * u` is the `OP` and byte `2 * u + 1` the `IMM` of micro-word `u`;
  an unlisted byte is the fixed micro-program's (R61; log entry 7). No step writes it. -/
  cs : Memory
  /-- The ROM contents a test instance lists, by byte as `Config.romByte` numbers them; an unlisted byte reads
  `Config.romByte` (R62; log entry 3). No step writes it. -/
  rom : Memory
  /-- The parameters (00_scope.md R11). No step writes them. -/
  params : Params
  /-- The model's own field: the agent that has the next turn (log entry 5). -/
  turn : Agent
  /-- The model's own field: the number the schedule's next choice is taken at (log entry 5). -/
  clock : Nat
  /-- The model's own field: how many more steps an enabled TXC can be kept waiting ((F1) of R292; log entry 5). -/
  txcWait : Nat
  /-- The model's own field: how many more steps SEQ can be kept waiting ((F2) of R292; log entry 5). -/
  seqWait : Nat
  /-- The model's own field: the number of draws taken (log entry 4). -/
  draws : Nat
  deriving DecidableEq, Repr

/-- The registers R321 leaves unspecified at reset, "any value, chosen freely by the model's initial-state
argument". -/
structure Unspecified where
  cap : Vector Byte 32
  stb : Bool
  pinAlo : BitVec 8
  pinAmid : BitVec 8
  pinAhi : BitVec 4
  txbuf : Memory
  deriving DecidableEq, Repr

/-- The reset state of R321 for a given choice of the unspecified registers and of the parameters. -/
def State.resetWith (u : Unspecified) (p : Params) : State :=
  { upc := 0x00#6, addr := 0x00000#20, row := 0#16, word := 0#4, tok := 0#5, cap := u.cap,
    ce := false, oe := false, stb := u.stb, pinAlo := u.pinAlo, pinAmid := u.pinAmid, pinAhi := u.pinAhi,
    settled := false, stbStale := true,
    txbuf := u.txbuf, busy := false, pending := 0, cursor := 0, im := false,
    serOn := false, ready := false, inflight := none, tcPend := false, line := [], fault := none,
    cs := [], rom := [], params := p, turn := .seq, clock := 0,
    txcWait := 0, seqWait := 0, draws := 0 }

/-- The choice `State.reset` makes for the unspecified registers: all zero (DESIGN CHOICE, unsafe, log entry 1). -/
def Unspecified.zero : Unspecified :=
  { cap := Vector.replicate 32 0x00#8, stb := false, pinAlo := 0#8, pinAmid := 0#8, pinAhi := 0#4, txbuf := [] }

/-- The machine right after reset (R321), with the hardware's parameters. -/
def State.reset : State := State.resetWith Unspecified.zero Config.params

end Sys2Proof.Machine
end

