-- ==== Sys2Proof/Machine/Ops.lean ====
section
/-!
DEFINITION. The named operations over the byte spaces and the registers, raising a fault, entering and leaving the
completion handler, and the push to the transmitter. Every meaning is written over these.
-/
namespace Sys2Proof.Machine

/-! ### Byte spaces (20_memory.md R80) -/

/-- The byte at address `a`; `dflt` is what an unlisted address reads as. -/
def Memory.read (dflt : Nat → Byte) (m : Memory) (a : Nat) : Byte :=
  match m with
  | [] => dflt a
  | c :: rest => if c.1 = a then c.2 else Memory.read dflt rest a

/-- The listing without address `a`. -/
def Memory.erase (m : Memory) (a : Nat) : Memory :=
  match m with
  | [] => []
  | c :: rest => if c.1 = a then Memory.erase rest a else c :: Memory.erase rest a

/-- The listing with byte `b` at address `a`, in rising order. -/
def Memory.insert (m : Memory) (a : Nat) (b : Byte) : Memory :=
  match m with
  | [] => [(a, b)]
  | c :: rest =>
    if a < c.1 then (a, b) :: c :: rest
    else if c.1 = a then (a, b) :: rest
    else c :: Memory.insert rest a b

/-- Write one byte, keeping the canonical form: a byte that an unlisted address reads anyway is not listed. -/
def Memory.write (dflt : Nat → Byte) (m : Memory) (a : Nat) (b : Byte) : Memory :=
  if b = dflt a then Memory.erase m a else Memory.insert m a b

/-- Write consecutive bytes from address `a` up. -/
def Memory.writeAll (dflt : Nat → Byte) (m : Memory) (a : Nat) (bs : List Byte) : Memory :=
  match bs with
  | [] => m
  | b :: rest => Memory.writeAll dflt (Memory.write dflt m a b) (a + 1) rest

/-- Addresses strictly rise from `lo` and stay below `size`, and no listed byte is what its address reads unlisted. -/
def Memory.wfFrom (dflt : Nat → Byte) (size lo : Nat) (m : Memory) : Bool :=
  match m with
  | [] => true
  | c :: rest =>
    decide (lo ≤ c.1) && decide (c.1 < size) && !(c.2 == dflt c.1) && Memory.wfFrom dflt size (c.1 + 1) rest

/-- The canonical form of a byte space of `size` bytes. -/
def Memory.wf (dflt : Nat → Byte) (size : Nat) (m : Memory) : Bool := Memory.wfFrom dflt size 0 m

/-- What an unlisted index of `TXBUF` reads as (reset contents unspecified, 10_state.md R51; log entry 1). -/
def txDefault (_ : Nat) : Byte := 0x00#8

/-- `TXBUF[i]`. -/
def State.txAt (s : State) (i : Nat) : Byte := Memory.read txDefault s.txbuf i

/-- `ROMDATA(a)`, the 16-bit word at a word address (10_state.md R62). -/
def State.romWord (s : State) (a : Address) : Word :=
  Memory.read Config.romByte s.rom (2 * a.toNat) ++ Memory.read Config.romByte s.rom (2 * a.toNat + 1)

/-- `CS[u]`, a micro-word of the control store (10_state.md R61). -/
def State.csWord (s : State) (u : Index) : Word :=
  packWord (Memory.read programByte s.cs (2 * u.toNat)) (Memory.read programByte s.cs (2 * u.toNat + 1))

/-- The micro-word SEQ fetches, `CS[upc]` (42_sequencing.md R240). -/
def State.fetchWord (s : State) : Word := s.csWord s.upc

/-- The state with another micro-word at `u`. No step does this: it is how a test instance is loaded
(92_eei_decisions.md D33). -/
def State.loadCs (s : State) (u : Index) (w : Word) : State :=
  { s with cs := Memory.writeAll programByte s.cs (2 * u.toNat) [opField w, immField w] }

/-- All three listed spaces are in canonical form: 128 bytes of `CS`, 2^21 bytes of ROM, `TXBUF_CAP` of `TXBUF`. -/
def State.memWf (s : State) : Bool :=
  Memory.wf programByte (2 * Config.csWords) s.cs && Memory.wf Config.romByte (2 * Config.addrSpace) s.rom
    && Memory.wf txDefault s.params.txbufCap s.txbuf

/-! ### Sequencer registers -/

/-- `upc <- upc + 1`, modulo 64 (10_state.md R40). -/
def State.advance (s : State) : State := { s with upc := s.upc + 1#6 }
/-- `upc <- t`. -/
def State.branch (s : State) (t : Index) : State := { s with upc := t }
/-- `ADDR <- (ADDR + 1) mod 2^20` (41_bus_read.md R213). -/
def State.stepAddr (s : State) : State := { s with addr := s.addr + 1#20 }
/-- `WORD <- w`. -/
def State.setWord (s : State) (w : BitVec 4) : State := { s with word := w }
/-- `TOK <- t`. -/
def State.setTok (s : State) (t : BitVec 5) : State := { s with tok := t }
/-- `ROW <- r`. -/
def State.setRow (s : State) (r : BitVec 16) : State := { s with row := r }
/-- `CAP[i] <- b`. -/
def State.putCap (s : State) (i : Fin 32) (b : Byte) : State := { s with cap := s.cap.set i.1 b i.2 }

/-! ### Bus pins: every pin write clears `SETTLED` (41_bus_read.md R200) -/

/-- Drive chip-enable. -/
def State.driveCe (s : State) (v : Bool) : State := { s with ce := v, settled := false }
/-- Drive output-enable. -/
def State.driveOe (s : State) (v : Bool) : State := { s with oe := v, settled := false }
/-- Drive the data strobe; the address behind it is no longer stale (10_state.md R68). -/
def State.driveStb (s : State) (v : Bool) : State := { s with stb := v, stbStale := false, settled := false }
/-- Drive the low-byte address pins; the strobe is stale from now on (10_state.md R68). -/
def State.driveAlo (s : State) (v : BitVec 8) : State := { s with pinAlo := v, stbStale := true, settled := false }
/-- Drive the mid-byte address pins. -/
def State.driveAmid (s : State) (v : BitVec 8) : State := { s with pinAmid := v, stbStale := true, settled := false }
/-- Drive the high-nibble address pins. -/
def State.driveAhi (s : State) (v : BitVec 4) : State := { s with pinAhi := v, stbStale := true, settled := false }
/-- `SETTLED <- v`. -/
def State.setSettled (s : State) (v : Bool) : State := { s with settled := v }

/-- The electrical level of the chip-enable pin (10_state.md R46, 00_scope.md R11). -/
def State.ceLevel (s : State) : Bool := if s.ce then Config.ceActiveLevel else !Config.ceActiveLevel
/-- The electrical level of the output-enable pin. -/
def State.oeLevel (s : State) : Bool := if s.oe then Config.oeActiveLevel else !Config.oeActiveLevel

/-! ### The transmit buffer and the transmitter -/

/-- `IM <- v` (10_state.md R55). -/
def State.setIm (s : State) (v : Bool) : State := { s with im := v }
/-- `SER_ON <- 1` (40_transmit_pipeline.md R162). -/
def State.turnSerOn (s : State) : State := { s with serOn := true }
/-- The fill of TX_LOAD: content from index 0, `PENDING <- L - 1; CURSOR <- 1; BUSY <- 1` (R164). -/
def State.fill (s : State) (m : List Byte) : State :=
  { s with txbuf := Memory.writeAll txDefault s.txbuf 0 m, pending := m.length - 1, cursor := 1, busy := true }
/-- `INFLIGHT <- u; READY <- 0`, the effect of `SerPush` (60_exceptions.md R295). -/
def State.push (s : State) (u : Byte) : State := { s with inflight := some u, ready := false }
/-- `CURSOR <- CURSOR + 1; PENDING <- PENDING - 1` (40_transmit_pipeline.md R167). -/
def State.popUnit (s : State) : State := { s with cursor := s.cursor + 1, pending := s.pending - 1 }
/-- `BUSY <- 0` (R167, the sole place it is cleared). -/
def State.clearBusy (s : State) : State := { s with busy := false }
/-- The effect of a SER shift: `LINE <- LINE ++ [u]; INFLIGHT <- none; READY <- 1; TC_PEND <- 1`
(60_exceptions.md R297). -/
def State.shiftOut (s : State) (u : Byte) : State :=
  { s with line := s.line ++ [u], inflight := none, ready := true, tcPend := true }
/-- `READY <- 1`, the SER ready step (R296). -/
def State.raiseReady (s : State) : State := { s with ready := true }
/-- One more draw taken (20_memory.md R84; log entry 4). -/
def State.countDraw (s : State) (drawn : Bool) : State := { s with draws := if drawn then s.draws + 1 else s.draws }

/-! ### Faults, and the completion interrupt -/

/-- `FAULT <- r`, and nothing else (60_exceptions.md R282). -/
def State.markFault (s : State) (r : Fault) : State := { s with fault := some r }

/-- `raise Fault(r)` (00_scope.md R16, 60_exceptions.md R282): the fault mark is set and the step writes nothing
else. From that state no agent has a step (`step` answers `fault`). -/
def raise (r : Fault) (s : State) : Host.Outcome State Fault Refusal := .next (s.markFault r)

/-- The code recorded with a fault reason (R281). -/
def Fault.code (r : Fault) : Nat :=
  match r with
  | .illegalUop _ _ => 1
  | .loadWhileBusy _ => 2
  | .msgOverflow _ _ => 3
  | .pushWithoutLoad _ => 4
  | .txOverrun _ _ => 5
  | .cursorRange _ => 6
  | .tcLost _ => 7

/-- Entry of the completion handler (R286 to R288): the notification is consumed; no register is saved, no status
changes and `upc` stays, because the handler is a fixed action with no vector and no stack. -/
def State.enterHandler (s : State) : State := { s with tcPend := false }

/-- Return from the handler (R289): there is no state to restore and no mask to lift. -/
def State.leaveHandler (s : State) : State := s

/-- `SerPush(u)` by agent `who`, then the rest of the caller's writes (R295): TX_OVERRUN while the transmitter is not
ready or holds a unit. `s` is the state before the step, which a raise leaves as it was. -/
def serPush (who : Agent) (u : Byte) (rest : State → State) (s : State) : Host.Outcome State Fault Refusal :=
  if s.ready = false ∨ s.inflight ≠ none then raise (.txOverrun who u) s else .next (rest (s.push u))

end Sys2Proof.Machine
end

