-- ==== Sys2Proof/Machine/Flags.lean ====
section
/-!
DEFINITION. The conditions the micro-ops, the handler and the agents test. The block has no condition-code register
(10_state.md R67): each condition is computed from the named state below.
-/
namespace Sys2Proof.Machine

/-- A sample is settled and enabled: `CE = 1`, `OE = 1`, `SETTLED = 1`, `STB_STALE = 0` (20_memory.md R82). -/
def State.sampleValid (s : State) : Bool := s.ce && s.oe && s.settled && !s.stbStale

/-- `T_SETTLE >= T_MIN` (00_scope.md R12, 41_bus_read.md R210). -/
def State.marginMet (s : State) : Bool := decide (s.params.tMin ≤ s.params.tSettle)

/-- `WORD = 15`, the last word of a row (42_sequencing.md R242). -/
def State.lastWord (s : State) : Bool := s.word == 15#4
/-- `TOK = 31`, the last token of a row (R243). -/
def State.lastTok (s : State) : Bool := s.tok == 31#5
/-- `ROW = NUM_ROWS - 1`, the last row (R244; log entry 11). -/
def State.lastRow (s : State) : Bool := decide (s.row.toNat + 1 = s.params.numRows)

/-- TXC is enabled (60_exceptions.md R287). -/
def State.txcEnabled (s : State) : Bool := s.tcPend && !s.im && s.fault.isNone
/-- The SER ready step is enabled (R296). -/
def State.serReadyEnabled (s : State) : Bool := s.serOn && s.inflight.isNone && !s.ready && s.fault.isNone
/-- The SER shift step is enabled (R297). -/
def State.serShiftEnabled (s : State) : Bool := s.inflight.isSome && s.fault.isNone
/-- SEQ is enabled: it always has a step, the spins included, until a fault is marked (42_sequencing.md R240). -/
def State.seqEnabled (s : State) : Bool := s.fault.isNone

/-- Is an agent enabled (00_scope.md R17)? -/
def State.enabled (s : State) (a : Agent) : Bool :=
  match a with
  | .seq => s.seqEnabled
  | .txc => s.txcEnabled
  | .ser => s.serReadyEnabled || s.serShiftEnabled

end Sys2Proof.Machine
end

