-- ==== Sys2Proof/Machine/Operands.lean ====
section
/-!
DEFINITION. Every operand the micro-ops read: the address split, the strobe levels, the ROM sample, the capture
positions, hex rendering, the three messages and the branch target (30_encoding.md Part A and R130).
-/
namespace Sys2Proof.Machine

/-! ### The address split (30_encoding.md R120, R121; 90_conflicts.md C1) -/

/-- `ALO(A) = A[7:0]`. -/
def addrLo (a : Address) : BitVec 8 := a.extractLsb' 0 8
/-- `AMID(A) = A[15:8]`. -/
def addrMid (a : Address) : BitVec 8 := a.extractLsb' 8 8
/-- `AHI(A) = A[19:16]`, four bits. -/
def addrHi (a : Address) : BitVec 4 := a.extractLsb' 16 4
/-- The address the three pin groups present together (20_memory.md R82). -/
def joinAddr (hi : BitVec 4) (mid lo : BitVec 8) : Address := (hi ++ mid ++ lo : BitVec 20)
/-- The address on the pins, `{PIN_AHI, PIN_AMID, PIN_ALO}` (10_state.md R48). -/
def State.busAddress (s : State) : Address := joinAddr s.pinAhi s.pinAmid s.pinAlo

/-! ### The strobe and the sample -/

/-- `STB_HIGH_LEVEL = 1`: the strobe level that selects the high byte (30_encoding.md R122, D5). -/
def stbHighLevel : Bool := true

/-- `w[15:8]`. -/
def highByte (w : Word) : Byte := w.extractLsb' 8 8
/-- `w[7:0]`. -/
def lowByte (w : Word) : Byte := w.extractLsb' 0 8

/-- The half of a word the strobe level selects (30_encoding.md R122). -/
def selectHalf (stb : Bool) (w : Word) : Byte := if stb = stbHighLevel then highByte w else lowByte w

/-- `MemRead`: the byte on the data bus, a draw unless the sample is settled and enabled (20_memory.md R82, R84). -/
def State.busSample (s : State) : Byte :=
  if s.sampleValid then selectHalf s.stb (s.romWord s.busAddress) else Config.draw s.draws

/-- `2 * WORD`, the capture position of a word's high byte (20_memory.md R85). -/
def capHigh (w : BitVec 4) : Fin 32 := ⟨2 * w.toNat, by have := w.isLt; omega⟩
/-- `2 * WORD + 1`, the capture position of a word's low byte. -/
def capLow (w : BitVec 4) : Fin 32 := ⟨2 * w.toNat + 1, by have := w.isLt; omega⟩
/-- `CAP[i]`. -/
def State.capAt (s : State) (i : Fin 32) : Byte := s.cap.get i
/-- The capture position `TOK`. -/
def tokIndex (t : BitVec 5) : Fin 32 := ⟨t.toNat, t.isLt⟩

/-! ### Messages (30_encoding.md R124 to R126) -/

/-- `hexdigit(n)`: lowercase ASCII (R124, R125). -/
def hexDigit (n : BitVec 4) : Byte :=
  if n ≤ 9#4 then 0x30#8 + n.setWidth 8 else 0x57#8 + n.setWidth 8

/-- `tok(b)`: two hex characters, high nibble first (R124). -/
def hexToken (b : Byte) : List Byte := [hexDigit (b.extractLsb' 4 4), hexDigit (b.extractLsb' 0 4)]

/-- CR LF (R125, R126). -/
def crlfMessage : List Byte := [0x0D#8, 0x0A#8]

/-- The start-up banner, CR LF `Ready` CR LF CR LF (R125, R126). -/
def bannerMessage : List Byte :=
  [0x0D#8, 0x0A#8, 0x52#8, 0x65#8, 0x61#8, 0x64#8, 0x79#8, 0x0D#8, 0x0A#8, 0x0D#8, 0x0A#8]

/-- The message selectors (R126). -/
inductive Selector where
  | banner
  | hex
  | crlf
  deriving DecidableEq, Repr

/-- `msg(s)`: the content a selector names (R126). -/
def State.message (s : State) (sel : Selector) : List Byte :=
  match sel with
  | .banner => bannerMessage
  | .hex => hexToken (s.capAt (tokIndex s.tok))
  | .crlf => crlfMessage

/-! ### The branch target (30_encoding.md R130) -/

/-- `zext_6(IMM[5:0])`, an absolute control-store index. -/
def branchTarget (imm : Byte) : Index := imm.extractLsb' 0 6

end Sys2Proof.Machine
end

