-- ==== Sys2Proof/Machine/BusControl.lean ====
section
/-!
DEFINITION. The pin-writing micro-ops: chip control, strobe and address drive (41_bus_read.md R200 to R209).
-/
namespace Sys2Proof.Machine

/-- CE_ON (R201). -/
def execCeOn (s : State) : Host.Outcome State Fault Refusal := .next (s.driveCe true).advance
/-- CE_OFF (R202). -/
def execCeOff (s : State) : Host.Outcome State Fault Refusal := .next (s.driveCe false).advance
/-- OE_ON (R203). -/
def execOeOn (s : State) : Host.Outcome State Fault Refusal := .next (s.driveOe true).advance
/-- OE_OFF (R204). -/
def execOeOff (s : State) : Host.Outcome State Fault Refusal := .next (s.driveOe false).advance
/-- STB_H (R205). -/
def execStbH (s : State) : Host.Outcome State Fault Refusal := .next (s.driveStb stbHighLevel).advance
/-- STB_L (R206). -/
def execStbL (s : State) : Host.Outcome State Fault Refusal := .next (s.driveStb (!stbHighLevel)).advance
/-- DRV_LO (R207). -/
def execDrvLo (s : State) : Host.Outcome State Fault Refusal := .next (s.driveAlo (addrLo s.addr)).advance
/-- DRV_MID (R208). -/
def execDrvMid (s : State) : Host.Outcome State Fault Refusal := .next (s.driveAmid (addrMid s.addr)).advance
/-- DRV_HI (R209). -/
def execDrvHi (s : State) : Host.Outcome State Fault Refusal := .next (s.driveAhi (addrHi s.addr)).advance

end Sys2Proof.Machine
end

