-- ==== Sys2Proof/Machine/Control.lean ====
section
/-!
DEFINITION. The control micro-ops of the sequencer (42_sequencing.md R242 to R245).
-/
namespace Sys2Proof.Machine

/-- LOOP_WORD t (R242). -/
def execLoopWord (imm : Byte) (s : State) : Host.Outcome State Fault Refusal :=
  if s.lastWord then .next (s.setWord 0#4).advance
  else .next ((s.setWord (s.word + 1#4)).branch (branchTarget imm))

/-- LOOP_TOK t (R243). -/
def execLoopTok (imm : Byte) (s : State) : Host.Outcome State Fault Refusal :=
  if s.lastTok then .next (s.setTok 0#5).advance
  else .next ((s.setTok (s.tok + 1#5)).branch (branchTarget imm))

/-- LOOP_ROW t (R244). -/
def execLoopRow (imm : Byte) (s : State) : Host.Outcome State Fault Refusal :=
  if s.lastRow then .next (s.setRow 0#16).advance
  else .next ((s.setRow (s.row + 1#16)).branch (branchTarget imm))

/-- IDLE (R245): spins for ever. -/
def execIdle (s : State) : Host.Outcome State Fault Refusal := .next s

end Sys2Proof.Machine
end

