-- ==== Sys2Proof/Machine/Handler.lean ====
section
/-!
DEFINITION. The action of the transmit-complete handler (40_transmit_pipeline.md R167).
-/
namespace Sys2Proof.Machine

/-- TXC (R167), one whole invocation: consume the notification; push the unit at the cursor while units are pending,
else clear `BUSY`. CURSOR_RANGE is tested before TX_OVERRUN (60_exceptions.md R283), and a raise leaves the
notification latched (R282). -/
def execTxc (s : State) : Host.Outcome State Fault Refusal :=
  if 0 < s.pending then
    if s.params.txbufCap ≤ s.cursor then raise (.cursorRange s.cursor) s
    else serPush .txc (s.txAt s.cursor) (fun t => t.enterHandler.popUnit.leaveHandler) s
  else .next s.enterHandler.clearBusy.leaveHandler

end Sys2Proof.Machine
end

