-- ==== Sys2Proof/Machine/Sample.lean ====
section
/-!
DEFINITION. Settle, sample and address increment (41_bus_read.md R210 to R213).
-/
namespace Sys2Proof.Machine

/-- SETTLE (R210): `SETTLED <- 1` when the margin is met, else unchanged. -/
def execSettle (s : State) : Host.Outcome State Fault Refusal :=
  .next (s.setSettled (s.marginMet || s.settled)).advance

/-- One sample of the bus stored at capture position `i`: all reads are of the state before the step (R211, R212). -/
def State.capture (s : State) (i : Fin 32) : State := (s.countDraw (!s.sampleValid)).putCap i s.busSample

/-- SMP_H (R211). -/
def execSmpH (s : State) : Host.Outcome State Fault Refusal := .next (s.capture (capHigh s.word)).advance
/-- SMP_L (R212). -/
def execSmpL (s : State) : Host.Outcome State Fault Refusal := .next (s.capture (capLow s.word)).advance
/-- AINC (R213): no pin is driven, so `SETTLED` and `STB_STALE` stay. -/
def execAinc (s : State) : Host.Outcome State Fault Refusal := .next s.stepAddr.advance

end Sys2Proof.Machine
end

