-- ==== Sys2Proof/Machine/Transmit.lean ====
section
/-!
DEFINITION. The transmit micro-ops of the sequencer (40_transmit_pipeline.md R162 to R166).
-/
namespace Sys2Proof.Machine

/-- SER_INIT (R162). -/
def execSerInit (s : State) : Host.Outcome State Fault Refusal := .next s.turnSerOn.advance

/-- TX_CLAIM (R163): the handler is masked for the check and unmasked again inside the one step, so `IM` is 0 after
it; the check reads `BUSY` and writes nothing. With `BUSY = 1` it spins. -/
def execTxClaim (s : State) : Host.Outcome State Fault Refusal :=
  let masked := s.setIm true
  let unmasked := masked.setIm false
  if masked.busy = true then .next unmasked else .next unmasked.advance

/-- TX_LOAD of a message (R164): LOAD_WHILE_BUSY is tested before MSG_OVERFLOW (60_exceptions.md R283). -/
def loadMessage (m : List Byte) (s : State) : Host.Outcome State Fault Refusal :=
  if s.busy = true then raise (.loadWhileBusy s.upc) s
  else if s.params.txbufCap < m.length then raise (.msgOverflow s.upc m.length) s
  else .next (s.fill m).advance

/-- TX_LOAD BANNER (R164). -/
def execTxLoadBanner (s : State) : Host.Outcome State Fault Refusal := loadMessage (s.message .banner) s
/-- TX_LOAD HEX (R164). -/
def execTxLoadHex (s : State) : Host.Outcome State Fault Refusal := loadMessage (s.message .hex) s
/-- TX_LOAD CRLF (R164). -/
def execTxLoadCrlf (s : State) : Host.Outcome State Fault Refusal := loadMessage (s.message .crlf) s

/-- TX_WAIT_RDY (R165): spins until `READY = 1`. -/
def execTxWaitRdy (s : State) : Host.Outcome State Fault Refusal :=
  if s.ready = true then .next s.advance else .next s

/-- TX_PUSH0 (R166): PUSH_WITHOUT_LOAD is tested before TX_OVERRUN (60_exceptions.md R283). -/
def execTxPush0 (s : State) : Host.Outcome State Fault Refusal :=
  if s.busy = false then raise (.pushWithoutLoad s.upc) s
  else serPush .seq (s.txAt 0) State.advance s

end Sys2Proof.Machine
end

