-- ==== Sys2Proof/Machine/Dispatch.lean ====
section
/-!
DEFINITION. The meaning of every micro-op, one arm per constructor.
-/
namespace Sys2Proof.Machine

/-- Execute one micro-op. -/
def exec (i : Instr) (s : State) : Host.Outcome State Fault Refusal :=
  match i with
  | .ceOn => Sys2Proof.Machine.execCeOn s
  | .ceOff => Sys2Proof.Machine.execCeOff s
  | .oeOn => Sys2Proof.Machine.execOeOn s
  | .oeOff => Sys2Proof.Machine.execOeOff s
  | .stbH => Sys2Proof.Machine.execStbH s
  | .stbL => Sys2Proof.Machine.execStbL s
  | .drvLo => Sys2Proof.Machine.execDrvLo s
  | .drvMid => Sys2Proof.Machine.execDrvMid s
  | .drvHi => Sys2Proof.Machine.execDrvHi s
  | .settle => Sys2Proof.Machine.execSettle s
  | .smpH => Sys2Proof.Machine.execSmpH s
  | .smpL => Sys2Proof.Machine.execSmpL s
  | .ainc => Sys2Proof.Machine.execAinc s
  | .serInit => Sys2Proof.Machine.execSerInit s
  | .txClaim => Sys2Proof.Machine.execTxClaim s
  | .txLoadBanner => Sys2Proof.Machine.execTxLoadBanner s
  | .txLoadHex => Sys2Proof.Machine.execTxLoadHex s
  | .txLoadCrlf => Sys2Proof.Machine.execTxLoadCrlf s
  | .txWaitRdy => Sys2Proof.Machine.execTxWaitRdy s
  | .txPush0 => Sys2Proof.Machine.execTxPush0 s
  | .loopWord imm => Sys2Proof.Machine.execLoopWord imm s
  | .loopTok imm => Sys2Proof.Machine.execLoopTok imm s
  | .loopRow imm => Sys2Proof.Machine.execLoopRow imm s
  | .idle => Sys2Proof.Machine.execIdle s
  | .txc => Sys2Proof.Machine.execTxc s

end Sys2Proof.Machine
end

