-- ==== Sys2Proof/Machine/Agents.lean ====
section
/-!
DEFINITION. One step of each agent (00_scope.md R17, 42_sequencing.md R240, 60_exceptions.md R287, R296, R297), and
which agent moves.
-/
namespace Sys2Proof.Machine

/-- One SEQ step: fetch `CS[upc]`, decode, execute; an illegal word faults before anything executes (R240, R283). -/
def seqStep (s : State) : Host.Outcome State Fault Refusal :=
  match decodeFetched s.fetchWord with
  | .ok i => exec i s
  | .error _ => raise (.illegalUop s.upc s.fetchWord) s

/-- One SER step: the shift while a unit is in flight (R297), else the ready step (R296). -/
def serStep (s : State) : Host.Outcome State Fault Refusal :=
  match s.inflight with
  | some u => if s.tcPend = true then raise (.tcLost u) s else .next (s.shiftOut u)
  | none => .next s.raiseReady

/-- One step of an agent that is enabled. -/
def agentStep (a : Agent) (s : State) : Host.Outcome State Fault Refusal :=
  match a with
  | .seq => seqStep s
  | .txc => exec .txc s
  | .ser => serStep s

/-! ### The schedule (the model's own, log entry 5) -/

/-- TXC is enabled and has been kept waiting as long as it can be (60_exceptions.md R287, R292 (F1)). -/
def State.txcDue (s : State) : Bool := s.txcEnabled && s.txcWait == 0

/-- The agent that takes the next step. TXC or SEQ, when it can be kept waiting no longer; else the one whose turn it
is if it is enabled; else SEQ, which always is until a fault is marked. Over all values of the model's own fields this
is every enabled agent and no other (R17, R291), and along a run neither TXC nor SEQ stays enabled for ever without
moving (R292 (F1), (F2)). Nothing obliges SER to move: `SER_LIVE` is a premise. -/
def State.mover (s : State) : Agent :=
  if s.txcDue then .txc
  else if s.turn != .seq && s.seqWait != 0 && s.enabled s.turn then s.turn
  else .seq

/-- After a step of `m` the schedule names the next turn. The agent that moved draws a new bound on its waiting, an
agent that is enabled and did not move has one step less left, and while TXC is not enabled its bound is drawn afresh
at every step. -/
def State.passTurn (s : State) (m : Agent) : State :=
  { s with
    turn := Config.schedule s.clock, clock := s.clock + 1,
    txcWait := if s.txcEnabled = true ∧ m ≠ .txc then s.txcWait - 1 else Config.txcPatience s.clock,
    seqWait := if m = .seq then Config.seqPatience s.clock else s.seqWait - 1 }

/-- `s` with the schedule's own fields as `t` has them. -/
def State.withSchedule (s t : State) : State :=
  { s with turn := t.turn, clock := t.clock, txcWait := t.txcWait, seqWait := t.seqWait }

/-- Pass the turn on in the next state of a step of `m`. -/
def thenPassTurn (m : Agent) (o : Host.Outcome State Fault Refusal) : Host.Outcome State Fault Refusal :=
  match o with
  | .next t => .next (t.passTurn m)
  | .fault r => .fault r
  | .refused r => .refused r

/-- The state in which the next step is a SEQ step that fetches `w` (92_eei_decisions.md D33). -/
def State.readySeq (s : State) (w : Word) : State :=
  { s.loadCs s.upc w with fault := none, turn := .seq, txcWait := 1 }

/-- The state in which the next step is an invocation of the handler (60_exceptions.md R287). -/
def State.readyTxc (s : State) : State := { s with fault := none, txcWait := 0, tcPend := true, im := false }

end Sys2Proof.Machine
end

