-- ==== Sys2Proof/Machine/Step.lean ====
section
/-!
DEFINITION. One step of the machine, and placing one instruction where the next step runs it.
-/
namespace Sys2Proof.Machine

/-- One step. With a fault marked no agent has a step and the machine has stopped (60_exceptions.md R282); else one
enabled agent moves, atomically (20_memory.md R95). -/
def step (s : State) : Host.Outcome State Fault Refusal :=
  match s.fault with
  | some r => .fault r
  | none => thenPassTurn s.mover (agentStep s.mover s)

/-- `s` with the instruction `w` placed so that the very next step runs it: in the control store at `upc` with the
turn at SEQ, or, for TXC, which no control-store word may hold, as a pending unmasked notification with the
handler due (log entries 5, 8 and 9). -/
def State.withFetchWord (s : State) (nbits w : Nat) : State :=
  if decode (wordOfBits nbits w) = .ok .txc then s.readyTxc else s.readySeq (wordOfBits nbits w)

end Sys2Proof.Machine
end

