-- ==== Sys2Proof/Safety.lean ====
section
/-!
DEFINITION. What the claims talk about: sequences of micro-ops, the end of a run (60_exceptions.md R304), fairness
(R292), the expected output stream (30_encoding.md R127), and the invariants of the fixed micro-program
(40_transmit_pipeline.md R170; 41_bus_read.md R217; 42_sequencing.md R254, R256, R257).
-/
namespace Sys2Proof.Machine

/-! ### Sequences -/

/-- Go on with `f` from the next state of an outcome. -/
def andThen (o : Host.Outcome State Fault Refusal) (f : State → Host.Outcome State Fault Refusal) :
    Host.Outcome State Fault Refusal :=
  match o with
  | .next t => f t
  | .fault r => .fault r
  | .refused r => .refused r

/-- Micro-ops executed in order. -/
def runOps (is : List Instr) (s : State) : Host.Outcome State Fault Refusal :=
  match is with
  | [] => .next s
  | i :: rest => andThen (exec i s) (runOps rest)

/-- `n` rounds of one handler invocation followed by one SER step. -/
def drainRounds (n : Nat) (s : State) : Host.Outcome State Fault Refusal :=
  match n with
  | 0 => .next s
  | k + 1 => andThen (andThen (exec .txc s) serStep) (drainRounds k)

/-- The state after one step; a stopped machine keeps its state. -/
def State.after (s : State) : State :=
  match step s with
  | .next t => t
  | .fault _ => s
  | .refused _ => s

/-- The states of the run from `s`. -/
def State.trace (s : State) (n : Nat) : State :=
  match n with
  | 0 => s
  | k + 1 => (s.trace k).after

/-! ### The end of a run (R304) -/

/-- A run has ended successfully: `upc = 0x1E`, `BUSY = 0`, `INFLIGHT = none`, `TC_PEND = 0`, `FAULT = none`. -/
def State.Ended (s : State) : Prop :=
  s.upc = 0x1E#6 ∧ s.busy = false ∧ s.inflight = none ∧ s.tcPend = false ∧ s.fault = none

/-- A run has faulted. -/
def State.Faulted (s : State) : Prop := s.fault ≠ none

/-- SEQ spins, the handler is not enabled, and the run has neither ended nor faulted: only the transmitter can change
anything. -/
structure State.Spinning (s : State) : Prop where
  noFault : s.fault = none
  notEnded : ¬ s.Ended
  handlerOff : s.enabled .txc = false
  spin : seqStep s = .next s

/-- A run is stuck from `s` on (R304): SEQ spins and no other agent ever steps. Either the transmitter has no step, or
`SER_LIVE` is false of the run and it never takes the step it has (R298). -/
structure State.Stuck (s : State) : Prop extends State.Spinning s where
  serNeverMoves : ∀ n, (s.trace n).mover ≠ .ser

/-! ### Fairness (R292) -/

/-- An agent that stays enabled eventually moves. -/
def FairTo (a : Agent) (r : Nat → State) : Prop :=
  ∀ n, ∃ m, n ≤ m ∧ ((r m).enabled a = false ∨ (r m).mover = a)

/-- (F3) and (F4), `SER_LIVE`: the transmitter eventually takes the step it is enabled to take. A premise of a claim of
termination, not a property of the model (log entry 14). -/
def SerLive (r : Nat → State) : Prop := FairTo .ser r

/-- (F1) and (F2), the fairness of the block: a property of every run of the model (`State.mover`, log entry 5). -/
def BlockFair (r : Nat → State) : Prop := FairTo .txc r ∧ FairTo .seq r

/-! ### The expected output (R127) -/

/-- The word address of word `w` of row `r`, `16 * r + w`. -/
def rowAddress (r w : Nat) : Address := BitVec.ofNat 20 (16 * r + w)

/-- The byte captured at position `i` of row `r`: the high byte of a word at `2 * w`, its low byte at `2 * w + 1`
(20_memory.md R85). -/
def State.rowByte (s : State) (r i : Nat) : Byte :=
  if i % 2 = 0 then highByte (s.romWord (rowAddress r (i / 2))) else lowByte (s.romWord (rowAddress r (i / 2)))

/-- The first `n` tokens of row `r`. -/
def State.rowTokens (s : State) (r n : Nat) : List Byte := (List.range n).flatMap fun i => hexToken (s.rowByte r i)

/-- `line(r)`: 32 tokens and CR LF (R127). -/
def State.lineOf (s : State) (r : Nat) : List Byte := s.rowTokens r 32 ++ crlfMessage

/-- The banner and the first `n` lines (R127). -/
def State.stream (s : State) (n : Nat) : List Byte := bannerMessage ++ (List.range n).flatMap s.lineOf

/-! ### Invariants of the fixed micro-program -/

/-- `lo <= upc <= hi`. -/
abbrev State.At (s : State) (lo hi : Nat) : Prop := lo ≤ s.upc.toNat ∧ s.upc.toNat ≤ hi

/-- `upc` is at a TX_LOAD of the fixed micro-program (R246). -/
abbrev State.AtLoad (s : State) : Prop := s.At 0x02 0x02 ∨ s.At 0x15 0x15 ∨ s.At 0x1A 0x1A
/-- `upc` is at a TX_WAIT_RDY of the fixed micro-program. -/
abbrev State.AtWait (s : State) : Prop := s.At 0x03 0x03 ∨ s.At 0x16 0x16 ∨ s.At 0x1B 0x1B
/-- `upc` is at a TX_PUSH0 of the fixed micro-program. -/
abbrev State.AtPush (s : State) : Prop := s.At 0x04 0x04 ∨ s.At 0x17 0x17 ∨ s.At 0x1C 0x1C

/-- The machine is the hardware or a test instance with the fixed control store (R61, R246): nothing is listed in
`CS`, no fault is marked and `upc` is in the program. -/
structure State.Fixed (s : State) : Prop where
  store : s.cs = []
  noFault : s.fault = none
  inProgram : s.upc.toNat ≤ 0x1E
  legal : s.params.Legal

/-- The message the fixed micro-program last loaded, by the place in the program (R246, R250, R251): none before the
banner's TX_LOAD; before a row's first token the banner in row 0 and the previous row's CR LF in any other; then a
token; then CR LF. -/
def State.lastLoaded (s : State) : Option Selector :=
  if s.upc.toNat ≤ 0x02 then none
  else if s.upc.toNat ≤ 0x15 then
    if s.tok ≠ 0#5 then some .hex else if s.row = 0#16 then some .banner else some .crlf
  else if s.upc.toNat ≤ 0x1A then some .hex
  else some .crlf

/-- `L`, the length of the message last loaded (40_transmit_pipeline.md R170). -/
def State.lastLength (s : State) : Nat :=
  match s.lastLoaded with
  | none => 0
  | some sel => (s.message sel).length

/-- The pipeline invariant (40_transmit_pipeline.md R170 (a) to (f)), with what its proof there uses beside: `IM = 0`,
`READY = 1` at a TX_PUSH0 and from then on while nothing is in flight, nothing pending while `BUSY = 0`, and the loop
counters that say which message was loaded last. -/
structure State.Pipeline (s : State) : Prop where
  rowInRange : s.row.toNat < s.params.numRows
  beforeRows : s.At 0x00 0x04 → s.row = 0#16
  noToken : ¬ s.At 0x14 0x18 → s.tok = 0#5
  unmasked : s.im = false
  notBusy : s.busy = false → s.inflight = none ∧ s.tcPend = false
  drained : s.busy = false → s.pending = 0
  inFlight : s.inflight ≠ none → s.tcPend = false ∧ s.ready = false
  notified : s.tcPend = true → s.busy = true ∧ s.ready = true
  counts : s.busy = true → s.cursor + s.pending = s.lastLength ∧ 1 ≤ s.cursor ∧ s.cursor ≤ s.lastLength
    ∧ s.lastLength ≤ s.params.txbufCap
  atLoad : s.AtLoad → s.busy = false
  beforePush : s.AtWait ∨ s.AtPush →
    s.busy = true ∧ s.cursor = 1 ∧ s.pending = s.lastLength - 1 ∧ s.inflight = none ∧ s.tcPend = false
  readyAtPush : s.AtPush → s.ready = true
  readyOnceStarted : 0x05 ≤ s.upc.toNat → s.inflight = none → s.ready = true

/-- How many positions of `CAP` hold bytes of the current row, by the place in the program (42_sequencing.md R254). -/
def State.captured (s : State) : Nat :=
  if s.upc.toNat ≤ 0x06 then 0
  else if s.upc.toNat ≤ 0x0C then 2 * s.word.toNat
  else if s.upc.toNat ≤ 0x0F then 2 * s.word.toNat + 1
  else if s.upc.toNat ≤ 0x11 then 2 * s.word.toNat + 2
  else if s.upc.toNat ≤ 0x1D then 32
  else 0

/-- The walk invariant: the counters and the address (42_sequencing.md R256), the enables (R248), the pins before
each sample and that the samples are settled (41_bus_read.md R217), and the captured bytes (R217, R254). -/
structure State.Walk (s : State) : Prop where
  rowInRange : s.row.toNat < s.params.numRows
  beforeRows : s.At 0x00 0x04 → s.row = 0#16
  rowStart : s.At 0x00 0x06 → s.addr = rowAddress s.row.toNat 0 ∧ s.word = 0#4
  inRow : s.At 0x07 0x10 → s.addr = rowAddress s.row.toNat s.word.toNat
  stepped : s.At 0x11 0x11 → s.addr = rowAddress s.row.toNat (s.word.toNat + 1)
  rowDone : s.At 0x12 0x1D → s.addr = rowAddress s.row.toNat 16 ∧ s.word = 0#4
  allDone : s.At 0x1E 0x1E → s.addr = rowAddress s.params.numRows 0 ∧ s.row = 0#16 ∧ s.word = 0#4
  noToken : ¬ s.At 0x14 0x18 → s.tok = 0#5
  chipEnable : s.ce = true ↔ s.At 0x06 0x12
  outputEnable : s.oe = true ↔ s.At 0x07 0x13
  lowDriven : s.At 0x08 0x10 → s.pinAlo = addrLo s.addr
  midDriven : s.At 0x09 0x10 → s.pinAmid = addrMid s.addr
  highDriven : s.At 0x0A 0x10 → s.pinAhi = addrHi s.addr
  strobeHigh : s.At 0x0B 0x0D → s.stb = stbHighLevel ∧ s.stbStale = false
  strobeLow : s.At 0x0E 0x10 → s.stb = (!stbHighLevel) ∧ s.stbStale = false
  settledForSample : s.marginMet = true → (s.At 0x0C 0x0C ∨ s.At 0x0F 0x0F) → s.settled = true
  bytes : s.marginMet = true → ∀ i : Fin 32, i.val < s.captured → s.capAt i = s.rowByte s.row.toNat i.val

/-- All units of the messages loaded so far, by the place in the program (R246, R250, R251). -/
def State.loaded (s : State) : List Byte :=
  if s.upc.toNat ≤ 0x02 then []
  else if s.upc.toNat ≤ 0x13 then s.stream s.row.toNat
  else if s.upc.toNat ≤ 0x15 then s.stream s.row.toNat ++ s.rowTokens s.row.toNat s.tok.toNat
  else if s.upc.toNat ≤ 0x18 then s.stream s.row.toNat ++ s.rowTokens s.row.toNat (s.tok.toNat + 1)
  else if s.upc.toNat ≤ 0x1A then s.stream s.row.toNat ++ s.rowTokens s.row.toNat 32
  else if s.upc.toNat ≤ 0x1D then s.stream (s.row.toNat + 1)
  else s.stream s.params.numRows

/-- `n` units of `TXBUF` from index `i`. -/
def State.txUnits (s : State) (i n : Nat) : List Byte := (List.range n).map fun k => s.txAt (i + k)

/-- The units of the loaded message that are not on the line yet: the whole message before its TX_PUSH0, then the unit
in flight and what the handler has still to push. -/
def State.unsent (s : State) : List Byte :=
  if s.AtWait ∨ s.AtPush then s.txUnits 0 (s.pending + 1)
  else s.inflight.toList ++ s.txUnits s.cursor s.pending

/-- The output invariant: the line and the unsent units together are the messages loaded so far (R169, R257). -/
def State.Output (s : State) : Prop := s.line ++ s.unsent = s.loaded

end Sys2Proof.Machine
end

