-- ==== Sys2Proof/Certificates/Slice0/Obligations.lean ====
section
/-!
DEFINITION. The statements about the model. Each docstring names the rule of spec/ it formalises.
-/

open Sys2Proof Sys2Proof.Machine

/-! ### Encoding -/

/-- R128 to R130: the decoder reads exactly the words the encoder writes for well-formed micro-ops, with every operand
at every value, and each word has one meaning. -/
def Obligations.DecodeEncodeAgree : Prop :=
  ∀ (w : Word) (i : Instr), decode w = .ok i ↔ i.WellFormed ∧ encode i = w

/-- R131: the illegal words, clause by clause, the micro-op of every other word, and what SEQ does when it fetches an
illegal one; 0x0000 is one and fills the control store from 0x1F. -/
def Obligations.FetchRejectsExactlyIllegalWords : Prop :=
  (∀ w : Word, (∃ e, decodeFetched w = .error e) ↔
    (w.extractLsb' 8 8 ∉ [0x01#8, 0x02#8, 0x03#8, 0x04#8, 0x08#8, 0x09#8, 0x0A#8, 0x0B#8, 0x0C#8, 0x10#8, 0x11#8,
      0x12#8, 0x13#8, 0x20#8, 0x21#8, 0x22#8, 0x23#8, 0x24#8, 0x30#8, 0x31#8, 0x32#8, 0x3F#8, 0x40#8]) ∨
    w.extractLsb' 8 8 = 0x40#8 ∨
    (w.extractLsb' 8 8 ∈ [0x01#8, 0x02#8, 0x03#8, 0x04#8, 0x08#8, 0x09#8, 0x0A#8, 0x0B#8, 0x0C#8, 0x10#8, 0x11#8,
      0x12#8, 0x13#8, 0x20#8, 0x21#8, 0x23#8, 0x24#8, 0x3F#8] ∧ w.extractLsb' 0 8 ≠ 0x00#8) ∨
    (w.extractLsb' 8 8 = 0x22#8 ∧ 0x02 < (w.extractLsb' 0 8).toNat) ∨
    (w.extractLsb' 8 8 ∈ [0x30#8, 0x31#8, 0x32#8] ∧ w.extractLsb' 6 2 ≠ 0#2)) ∧
  (∀ (w : Word) (i : Instr), decodeFetched w = .ok i ↔ i.WellFormed ∧ encode i = w ∧ i ≠ .txc) ∧
  (∀ s : State, (∃ e, decodeFetched s.fetchWord = .error e) →
    seqStep s = .next { s with fault := some (.illegalUop s.upc s.fetchWord) }) ∧
  (∃ e, decodeFetched 0x0000#16 = .error e) ∧
  (∀ u : Index, 0x1F ≤ u.toNat → State.reset.csWord u = 0x0000#16)

/-- R129: a word of each group of the opcode map, written out from the table, decodes to its micro-op. -/
def Obligations.SampleWordsDecode : Prop :=
  decode 0x0100#16 = .ok .ceOn ∧ decode 0x0900#16 = .ok .stbL ∧ decode 0x0C00#16 = .ok .drvHi ∧
  decode 0x1000#16 = .ok .settle ∧ decode 0x1200#16 = .ok .smpL ∧ decode 0x1300#16 = .ok .ainc ∧
  decode 0x2202#16 = .ok .txLoadCrlf ∧ decode 0x303F#16 = .ok (.loopWord 0x3F#8) ∧ decode 0x3F00#16 = .ok .idle ∧
  decode 0x4000#16 = .ok .txc ∧ decode 0x3047#16 = .error (.targetRange 0x47#8)

/-- R246: the words of the control store at reset and the micro-ops they are. -/
def Obligations.ControlStoreHoldsTheMicroProgram : Prop :=
  ∀ u : Index,
    State.reset.csWord u =
      ([0x2000#16, 0x2100#16, 0x2200#16, 0x2300#16, 0x2400#16, 0x0100#16, 0x0300#16, 0x0A00#16, 0x0B00#16, 0x0C00#16,
        0x0800#16, 0x1000#16, 0x1100#16, 0x0900#16, 0x1000#16, 0x1200#16, 0x1300#16, 0x3007#16, 0x0200#16, 0x0400#16,
        0x2100#16, 0x2201#16, 0x2300#16, 0x2400#16, 0x3114#16, 0x2100#16, 0x2202#16, 0x2300#16, 0x2400#16, 0x3205#16,
        0x3F00#16] : List Word).getD u.toNat 0x0000#16 ∧
    (u.toNat ≤ 0x1E →
      decodeFetched (State.reset.csWord u) =
        .ok (([.serInit, .txClaim, .txLoadBanner, .txWaitRdy, .txPush0, .ceOn, .oeOn, .drvLo, .drvMid, .drvHi,
          .stbH, .settle, .smpH, .stbL, .settle, .smpL, .ainc, .loopWord 0x07#8, .ceOff, .oeOff,
          .txClaim, .txLoadHex, .txWaitRdy, .txPush0, .loopTok 0x14#8, .txClaim, .txLoadCrlf, .txWaitRdy, .txPush0,
          .loopRow 0x05#8, .idle] : List Instr).getD u.toNat .idle))

/-! ### The step and the agents -/

/-- R240, R287: with no fault marked and the move at SEQ, a step is the fetched micro-op's `exec`, and with the move at
the handler it is the `exec` of TXC; after it the turn passes (`turn`, `clock`, `txcWait`, `seqWait`: the model's own
fields, log entry 5). -/
def Obligations.StepRunsTheDecodedInstruction : Prop :=
  (∀ (s : State) (i : Instr), s.fault = none → s.mover = .seq → decodeFetched s.fetchWord = .ok i →
    step s = thenPassTurn .seq (exec i s)) ∧
  (∀ s : State, s.fault = none → s.mover = .txc → step s = thenPassTurn .txc (exec .txc s)) ∧
  (∀ s : State, s.fault = none → s.mover = .ser → step s = thenPassTurn .ser (serStep s)) ∧
  (∀ (m : Agent) (t : State), thenPassTurn m (.next t) =
    .next { t with
      turn := Config.schedule t.clock, clock := t.clock + 1,
      txcWait := if t.enabled .txc = true ∧ m ≠ .txc then t.txcWait - 1 else Config.txcPatience t.clock,
      seqWait := if m = .seq then Config.seqPatience t.clock else t.seqWait - 1 })

/-- Log entries 8 and 9: `withFetchWord` places every encodable micro-op so that the very next step runs it. -/
def Obligations.PlacedWordRunsNext : Prop :=
  ∀ (s : State) (i : Instr), i.WellFormed →
    step (s.withFetchWord 16 (encode i).toNat) =
      thenPassTurn (if i = .txc then .txc else .seq) (exec i (s.withFetchWord 16 (encode i).toNat))

/-- R17, R291: whichever agent is enabled may move next (for every value of the two bounds on waiting but 0, with the
turn at it), and only an enabled agent moves. The choice by `turn`, `txcWait` and `seqWait` is the model's own (log
entry 5). -/
def Obligations.AnyEnabledAgentMayMove : Prop :=
  ∀ s : State, s.fault = none →
    (∀ (a : Agent) (m n : Nat), s.enabled a = true → 0 < m → 0 < n →
      ({ s with turn := a, txcWait := m, seqWait := n } : State).mover = a) ∧ s.enabled s.mover = true

/-- R287, R296, R297: when the handler and the two transmitter steps are enabled. -/
def Obligations.EnablingConditions : Prop :=
  ∀ s : State,
    (s.enabled .txc = true ↔ s.tcPend = true ∧ s.im = false ∧ s.fault = none) ∧
    (s.enabled .ser = true ↔
      (s.serOn = true ∧ s.inflight = none ∧ s.ready = false ∧ s.fault = none) ∨
      ((∃ u, s.inflight = some u) ∧ s.fault = none)) ∧
    (s.enabled .seq = true ↔ s.fault = none)

/-- From R282: a step that raises a fault writes `FAULT` and nothing else; from then on no agent is enabled, and a
faulted state is no successful end. That `step` answers `fault` there is the model's reading of a sticky mark (DEDUCED,
log entry 6). -/
def Obligations.FaultsStickAndStopEverything : Prop :=
  (∀ (a : Agent) (s t : State), s.fault = none → agentStep a s = .next t → t.fault ≠ none →
    t = { s with fault := t.fault }) ∧
  (∀ (s : State) (r : Fault), s.fault = some r → step s = .fault r ∧ (∀ a, s.enabled a = false) ∧ ¬ s.Ended)

/-- Every step of a machine with no fault marked answers a next state: nothing is refused. -/
def Obligations.StepAlwaysAnswers : Prop :=
  ∀ s : State, s.fault = none → ∃ t, step s = .next t

/-! ### Bus micro-ops -/

/-- R201 to R204: CE_ON, CE_OFF, OE_ON, OE_OFF, with the electrical level driven (R11) and that a sample with either
line de-asserted is a draw. -/
def Obligations.ChipControl : Prop :=
  (encode .ceOn = 0x0100#16 ∧ encode .ceOff = 0x0200#16 ∧ encode .oeOn = 0x0300#16 ∧ encode .oeOff = 0x0400#16) ∧
  (∀ s : State,
    exec .ceOn s = .next { s with ce := true, settled := false, upc := s.upc + 1#6 } ∧
    exec .ceOff s = .next { s with ce := false, settled := false, upc := s.upc + 1#6 } ∧
    exec .oeOn s = .next { s with oe := true, settled := false, upc := s.upc + 1#6 } ∧
    exec .oeOff s = .next { s with oe := false, settled := false, upc := s.upc + 1#6 }) ∧
  (∀ s : State, (s.ce = true → s.ceLevel = Config.ceActiveLevel) ∧ (s.oe = true → s.oeLevel = Config.oeActiveLevel) ∧
    (s.ce = false ∨ s.oe = false → s.busSample = Config.draw s.draws))

/-- R205, R206: STB_H drives the level that selects the high byte, STB_L the other. -/
def Obligations.StrobeDrive : Prop :=
  encode .stbH = 0x0800#16 ∧ encode .stbL = 0x0900#16 ∧ stbHighLevel = true ∧
  ∀ s : State,
    exec .stbH s =
      .next { s with stb := stbHighLevel, stbStale := false, settled := false, upc := s.upc + 1#6 } ∧
    exec .stbL s =
      .next { s with stb := !stbHighLevel, stbStale := false, settled := false, upc := s.upc + 1#6 }

/-- R207 to R209: each address drive writes its field of `ADDR` to its own pins, marks the strobe stale and the bus
unsettled. -/
def Obligations.AddressDrive : Prop :=
  encode .drvLo = 0x0A00#16 ∧ encode .drvMid = 0x0B00#16 ∧ encode .drvHi = 0x0C00#16 ∧
  ∀ s : State,
    exec .drvLo s = .next { s with
      pinAlo := BitVec.ofNat 8 (s.addr.toNat % 256), stbStale := true, settled := false, upc := s.upc + 1#6 } ∧
    exec .drvMid s = .next { s with
      pinAmid := BitVec.ofNat 8 (s.addr.toNat / 256 % 256), stbStale := true, settled := false,
      upc := s.upc + 1#6 } ∧
    exec .drvHi s = .next { s with
      pinAhi := BitVec.ofNat 4 (s.addr.toNat / 65536), stbStale := true, settled := false, upc := s.upc + 1#6 }

/-- R121: the address split is lossless for every address, and the three drives may come in any order: the pins then
present `ADDR`. -/
def Obligations.AddressSplitIsLossless : Prop :=
  (∀ a : Address, (addrHi a).toNat * 2 ^ 16 + (addrMid a).toNat * 2 ^ 8 + (addrLo a).toNat = a.toNat) ∧
  (∀ (s : State) (is : List Instr), is.Perm [.drvLo, .drvMid, .drvHi] →
    ∃ t, runOps is s = .next t ∧ t.busAddress = s.addr ∧
      t = { s with pinAlo := addrLo s.addr, pinAmid := addrMid s.addr, pinAhi := addrHi s.addr,
                   stbStale := true, settled := false, upc := s.upc + 3#6 })

/-- R210: SETTLE settles the bus when the margin is met, and otherwise leaves `SETTLED` as it was. -/
def Obligations.SettleNeedsTheMargin : Prop :=
  encode .settle = 0x1000#16 ∧
  (∀ s : State, s.params.tMin ≤ s.params.tSettle →
    exec .settle s = .next { s with settled := true, upc := s.upc + 1#6 }) ∧
  (∀ s : State, s.params.tSettle < s.params.tMin → exec .settle s = .next { s with upc := s.upc + 1#6 })

/-- From R82, R211, R212: a sample stores the byte on the bus at the word's capture position: the half of the presented
word the strobe selects while settled and enabled, else a draw. The count `draws`, which a draw advances, is the
model's own field and no part of these rules (log entry 4). -/
def Obligations.SampleStoresTheBusByte : Prop :=
  encode .smpH = 0x1100#16 ∧ encode .smpL = 0x1200#16 ∧
  (∀ s : State, s.ce = true → s.oe = true → s.settled = true → s.stbStale = false →
    exec .smpH s = .next { s with
      cap := s.cap.set (2 * s.word.toNat)
        (if s.stb = stbHighLevel then (s.romWord s.busAddress).extractLsb' 8 8
         else (s.romWord s.busAddress).extractLsb' 0 8) (capHigh s.word).2,
      upc := s.upc + 1#6 } ∧
    exec .smpL s = .next { s with
      cap := s.cap.set (2 * s.word.toNat + 1)
        (if s.stb = stbHighLevel then (s.romWord s.busAddress).extractLsb' 8 8
         else (s.romWord s.busAddress).extractLsb' 0 8) (capLow s.word).2,
      upc := s.upc + 1#6 }) ∧
  (∀ s : State, s.ce = false ∨ s.oe = false ∨ s.settled = false ∨ s.stbStale = true →
    exec .smpH s = .next { s with
      cap := s.cap.set (2 * s.word.toNat) (Config.draw s.draws) (capHigh s.word).2,
      draws := s.draws + 1, upc := s.upc + 1#6 } ∧
    exec .smpL s = .next { s with
      cap := s.cap.set (2 * s.word.toNat + 1) (Config.draw s.draws) (capLow s.word).2,
      draws := s.draws + 1, upc := s.upc + 1#6 }) ∧
  (∀ s : State, s.busAddress.toNat = s.pinAhi.toNat * 2 ^ 16 + s.pinAmid.toNat * 2 ^ 8 + s.pinAlo.toNat)

/-- R213: AINC increments the address modulo 2^20 and writes nothing else. -/
def Obligations.AddressIncrementWraps : Prop :=
  encode .ainc = 0x1300#16 ∧
  ∀ s : State, exec .ainc s = .next { s with
    addr := BitVec.ofNat 20 ((s.addr.toNat + 1) % 2 ^ 20), upc := s.upc + 1#6 }

/-- From R82, R85, R207 to R213: with the chip enabled and the margin met, the ten micro-ops of `READ_WORD` (R135)
capture the two bytes of the word at `ADDR`, high byte first, whatever the pins held before. -/
def Obligations.ReadWordCapturesBothHalves : Prop :=
  ∀ s : State, s.ce = true → s.oe = true → s.params.tMin ≤ s.params.tSettle →
    ∃ t, runOps readWord s = .next t ∧
      (∀ j : Fin 32, t.capAt j =
        if j = capHigh s.word then (s.romWord s.addr).extractLsb' 8 8
        else if j = capLow s.word then (s.romWord s.addr).extractLsb' 0 8
        else s.capAt j) ∧
      t = { s with cap := t.cap, addr := s.addr + 1#20, upc := s.upc + 10#6, settled := true, stbStale := false,
                   stb := !stbHighLevel, pinAlo := addrLo s.addr, pinAmid := addrMid s.addr, pinAhi := addrHi s.addr }

/-- From R50, R68, R200, R210: which micro-ops write the hidden bits, over all micro-ops. -/
def Obligations.HiddenBusBitsWriters : Prop :=
  ∀ (i : Instr) (s t : State), exec i s = .next t →
    (i ∈ [Instr.ceOn, .ceOff, .oeOn, .oeOff, .stbH, .stbL, .drvLo, .drvMid, .drvHi] → t.settled = false) ∧
    (i ∉ [Instr.ceOn, .ceOff, .oeOn, .oeOff, .stbH, .stbL, .drvLo, .drvMid, .drvHi, .settle] →
      t.settled = s.settled) ∧
    (i ∈ [Instr.stbH, .stbL] → t.stbStale = false) ∧
    (i ∈ [Instr.drvLo, .drvMid, .drvHi] → t.stbStale = true) ∧
    (i ∉ [Instr.stbH, .stbL, .drvLo, .drvMid, .drvHi] → t.stbStale = s.stbStale)

/-- From R210, R216: with too short a settle time an unsettled bus never settles, so every sample is a draw. -/
def Obligations.ShortMarginNeverSettles : Prop :=
  ∀ s t : State, s.params.tSettle < s.params.tMin → s.settled = false → step s = .next t →
    t.params.tSettle < t.params.tMin ∧ t.settled = false ∧ t.busSample = Config.draw t.draws

/-! ### Transmit micro-ops, the handler and the transmitter -/

/-- R162: SER_INIT. -/
def Obligations.SerInitTurnsTransmitterOn : Prop :=
  encode .serInit = 0x2000#16 ∧
  ∀ s : State, exec .serInit s = .next { s with serOn := true, upc := s.upc + 1#6 }

/-- R163: TX_CLAIM spins while busy and passes otherwise, writing only `upc` and leaving the mask open. -/
def Obligations.ClaimSpinsWhileBusy : Prop :=
  encode .txClaim = 0x2100#16 ∧
  (∀ s : State, s.busy = true → exec .txClaim s = .next { s with im := false }) ∧
  (∀ s : State, s.busy = false → exec .txClaim s = .next { s with im := false, upc := s.upc + 1#6 })

/-- R164: TX_LOAD of the three messages. `LOAD_WHILE_BUSY` comes before `MSG_OVERFLOW`; otherwise index `k` of the
buffer holds unit `k` of the message, later indexes are unchanged, and nothing else is written but the counters,
`BUSY` and `upc`. -/
def Obligations.LoadFillsTheBuffer : Prop :=
  (encode .txLoadBanner = 0x2200#16 ∧ encode .txLoadHex = 0x2201#16 ∧ encode .txLoadCrlf = 0x2202#16) ∧
  ∀ (s : State) (i : Instr) (m : List Byte),
    (i, m) ∈ [(Instr.txLoadBanner, bannerMessage), (Instr.txLoadHex, hexToken (s.capAt (tokIndex s.tok))),
      (Instr.txLoadCrlf, crlfMessage)] →
    (m.length = 2 ∨ m.length = 11) ∧
    (s.busy = true → exec i s = .next { s with fault := some (.loadWhileBusy s.upc) }) ∧
    (s.busy = false → s.params.txbufCap < m.length →
      exec i s = .next { s with fault := some (.msgOverflow s.upc m.length) }) ∧
    (s.busy = false → m.length ≤ s.params.txbufCap →
      ∃ t, exec i s = .next t ∧ (∀ k, t.txAt k = m.getD k (s.txAt k)) ∧
        t = { s with txbuf := t.txbuf, pending := m.length - 1, cursor := 1, busy := true, upc := s.upc + 1#6 })

/-- R165: TX_WAIT_RDY spins, changing nothing, until `READY = 1`; while the transmitter is not initialised no step of
any agent raises it. -/
def Obligations.WaitSpinsUntilReady : Prop :=
  encode .txWaitRdy = 0x2300#16 ∧
  (∀ s : State, s.ready = true → exec .txWaitRdy s = .next { s with upc := s.upc + 1#6 }) ∧
  (∀ s : State, s.ready = false → exec .txWaitRdy s = .next s) ∧
  (∀ s t : State, s.serOn = false → s.ready = false → s.inflight = none → step s = .next t →
    t.ready = false ∧ t.inflight = none)

/-- R166, with `SerPush` (R295): TX_PUSH0 and its two faults, PUSH_WITHOUT_LOAD first. -/
def Obligations.FirstUnitPush : Prop :=
  encode .txPush0 = 0x2400#16 ∧
  (∀ s : State, s.busy = false → exec .txPush0 s = .next { s with fault := some (.pushWithoutLoad s.upc) }) ∧
  (∀ s : State, s.busy = true → s.ready = false ∨ s.inflight ≠ none →
    exec .txPush0 s = .next { s with fault := some (.txOverrun .seq (s.txAt 0)) }) ∧
  (∀ s : State, s.busy = true → s.ready = true → s.inflight = none →
    exec .txPush0 s = .next { s with inflight := some (s.txAt 0), ready := false, upc := s.upc + 1#6 })

/-- R167, with `SerPush` (R295): one handler invocation and its two faults, CURSOR_RANGE first; a fault leaves the
notification latched. It is enabled exactly when `TC_PEND = 1`, `IM = 0` and `FAULT = none`. -/
def Obligations.HandlerInvocation : Prop :=
  encode .txc = 0x4000#16 ∧ decodeFetched 0x4000#16 = .error .handlerInStore ∧
  (∀ s : State, s.txcEnabled = true ↔ s.tcPend = true ∧ s.im = false ∧ s.fault = none) ∧
  (∀ s : State, s.pending = 0 → exec .txc s = .next { s with tcPend := false, busy := false }) ∧
  (∀ s : State, 0 < s.pending → s.params.txbufCap ≤ s.cursor →
    exec .txc s = .next { s with fault := some (.cursorRange s.cursor) }) ∧
  (∀ s : State, 0 < s.pending → s.cursor < s.params.txbufCap → s.ready = false ∨ s.inflight ≠ none →
    exec .txc s = .next { s with fault := some (.txOverrun .txc (s.txAt s.cursor)) }) ∧
  (∀ s : State, 0 < s.pending → s.cursor < s.params.txbufCap → s.ready = true → s.inflight = none →
    exec .txc s = .next { s with
      tcPend := false, inflight := some (s.txAt s.cursor), ready := false, cursor := s.cursor + 1,
      pending := s.pending - 1 })

/-- R296, R297: the ready step and the shift step of the transmitter, with TC_LOST, and when each is enabled. -/
def Obligations.TransmitterSteps : Prop :=
  (∀ s : State, s.serReadyEnabled = true ↔
    s.serOn = true ∧ s.inflight = none ∧ s.ready = false ∧ s.fault = none) ∧
  (∀ s : State, s.serShiftEnabled = true ↔ (∃ u, s.inflight = some u) ∧ s.fault = none) ∧
  (∀ s : State, s.inflight = none → serStep s = .next { s with ready := true }) ∧
  (∀ (s : State) (u : Byte), s.inflight = some u → s.tcPend = true →
    serStep s = .next { s with fault := some (.tcLost u) }) ∧
  (∀ (s : State) (u : Byte), s.inflight = some u → s.tcPend = false →
    serStep s = .next { s with line := s.line ++ [u], inflight := none, ready := true, tcPend := true })

/-- From R124: the hex digits and the token of a byte, with the three examples the source gives. The numeric character
codes are the ASCII codes R125 marks as general knowledge (log entry 16). -/
def Obligations.HexRendering : Prop :=
  (∀ n : BitVec 4, (n.toNat ≤ 9 → (hexDigit n).toNat = 0x30 + n.toNat) ∧
    (10 ≤ n.toNat → (hexDigit n).toNat = 0x61 + (n.toNat - 10))) ∧
  (∀ b : Byte, hexToken b =
    [hexDigit (BitVec.ofNat 4 (b.toNat / 16)), hexDigit (BitVec.ofNat 4 (b.toNat % 16))]) ∧
  hexToken 0x00#8 = [0x30#8, 0x30#8] ∧ hexToken 0xAB#8 = [0x61#8, 0x62#8] ∧ hexToken 0xFF#8 = [0x66#8, 0x66#8]

/-- From R126: the three messages, their bytes and their lengths, in the ASCII codes R125 marks as general knowledge
(log entry 16). -/
def Obligations.MessageContents : Prop :=
  ∀ s : State,
    s.message .banner =
      [0x0D#8, 0x0A#8, 0x52#8, 0x65#8, 0x61#8, 0x64#8, 0x79#8, 0x0D#8, 0x0A#8, 0x0D#8, 0x0A#8] ∧
    s.message .hex = hexToken (s.cap[s.tok.toNat]'s.tok.isLt) ∧ s.message .crlf = [0x0D#8, 0x0A#8] ∧
    (s.message .banner).length = 11 ∧ (s.message .hex).length = 2 ∧ (s.message .crlf).length = 2

/-! ### Control micro-ops -/

/-- From R242 to R244: the three loops, at their limits and below them; the target is `IMM[5:0]`, absolute. For an
operand with a high bit set, which is no branch target (R130) and never decoded, the low six bits are the model's
choice (DESIGN CHOICE, log entry 13); the test `ROW + 1 = NUM_ROWS` is the rule's for every legal `NUM_ROWS` and the
model's for 0 (DEDUCED, log entry 11). -/
def Obligations.LoopsBranchOrFallThrough : Prop :=
  ∀ (s : State) (imm : Byte),
    (encode (.loopWord imm) = 0x30#8 ++ imm ∧ encode (.loopTok imm) = 0x31#8 ++ imm ∧
      encode (.loopRow imm) = 0x32#8 ++ imm) ∧
    (s.word.toNat = 15 → exec (.loopWord imm) s = .next { s with word := 0#4, upc := s.upc + 1#6 }) ∧
    (s.word.toNat ≠ 15 →
      exec (.loopWord imm) s = .next { s with
        word := BitVec.ofNat 4 (s.word.toNat + 1), upc := BitVec.ofNat 6 (imm.toNat % 64) }) ∧
    (s.tok.toNat = 31 → exec (.loopTok imm) s = .next { s with tok := 0#5, upc := s.upc + 1#6 }) ∧
    (s.tok.toNat ≠ 31 →
      exec (.loopTok imm) s = .next { s with
        tok := BitVec.ofNat 5 (s.tok.toNat + 1), upc := BitVec.ofNat 6 (imm.toNat % 64) }) ∧
    (s.row.toNat + 1 = s.params.numRows →
      exec (.loopRow imm) s = .next { s with row := 0#16, upc := s.upc + 1#6 }) ∧
    (s.row.toNat + 1 ≠ s.params.numRows →
      exec (.loopRow imm) s = .next { s with
        row := BitVec.ofNat 16 (s.row.toNat + 1), upc := BitVec.ofNat 6 (imm.toNat % 64) })

/-- R245: IDLE spins and writes nothing. -/
def Obligations.IdleSpinsForEver : Prop :=
  encode .idle = 0x3F00#16 ∧ ∀ s : State, exec .idle s = .next s

/-! ### Reset and memory -/

/-- R321: every value of the reset table, for any choice of the registers it leaves unspecified. -/
def Obligations.ResetValues : Prop :=
  ∀ (u : Unspecified) (p : Params),
    let s := State.resetWith u p
    s.upc = 0x00#6 ∧ s.addr = 0x00000#20 ∧ s.row = 0#16 ∧ s.word = 0#4 ∧ s.tok = 0#5 ∧ s.ce = false ∧ s.oe = false ∧
    s.settled = false ∧ s.stbStale = true ∧ s.busy = false ∧ s.pending = 0 ∧ s.cursor = 0 ∧ s.im = false ∧
    s.serOn = false ∧ s.ready = false ∧ s.inflight = none ∧ s.tcPend = false ∧ s.line = [] ∧ s.fault = none ∧
    s.cap = u.cap ∧ s.stb = u.stb ∧ s.pinAlo = u.pinAlo ∧ s.pinAmid = u.pinAmid ∧ s.pinAhi = u.pinAhi ∧
    s.txbuf = u.txbuf

/-- `State.reset` is a reset state of R321: the choice of zeros for the unspecified registers (the model's own choice,
log entry 1), with 65536 rows and parameters that meet R11 and R13 whatever the OPEN ones are (log entry 2). -/
def Obligations.ResetIsAnInstanceOfTheTable : Prop :=
  State.reset = State.resetWith Unspecified.zero Config.params ∧ Config.params.numRows = 65536 ∧
  Config.params.Legal ∧ (∀ k, State.reset.txAt k = 0x00#8) ∧ (∀ i, State.reset.capAt i = 0x00#8)

/-- From R61, R101: no step writes the control store, so none changes what a later step fetches; from R62: nor does any
write the ROM. That the parameters of R11 are plain data of the state, which no step writes, is the model's form
(DESIGN CHOICE, log entry 2). -/
def Obligations.NoStepWritesStoreRomOrParameters : Prop :=
  ∀ s t : State, step s = .next t →
    (∀ u : Index, t.csWord u = s.csWord u) ∧ (∀ a : Address, t.romWord a = s.romWord a) ∧ t.params = s.params

/-- The three listed byte spaces stay in canonical form over every step (the form is the model's own, log entries 1, 3
and 7): in particular TX_LOAD writes no index from `TXBUF_CAP` up (R164). -/
def Obligations.MemoryStaysCanonical : Prop :=
  ∀ s t : State, s.memWf = true → step s = .next t → t.memWf = true

/-- The three listed byte spaces of the reset state are in canonical form. The form, and that `State.reset` lists
nothing in any of them, are the model's own (log entries 1, 3 and 7). -/
def Obligations.ResetMemoryIsCanonical : Prop := State.reset.memWf = true

/-- From R53, R54: `PENDING` stays in 0 to `TXBUF_CAP - 1` and `CURSOR` in 0 to `TXBUF_CAP` over every step. -/
def Obligations.CountersStayInRange : Prop :=
  ∀ s t : State, s.pending < s.params.txbufCap → s.cursor ≤ s.params.txbufCap → step s = .next t →
    t.pending < t.params.txbufCap ∧ t.cursor ≤ t.params.txbufCap

/-- Two byte spaces in canonical form that read the same everywhere are the same listing (the form is the model's own,
log entries 1, 3 and 7). -/
def Obligations.CanonicalMemoriesAreEqualData : Prop :=
  ∀ (dflt : Nat → Byte) (size : Nat) (m m' : Memory),
    Memory.wf dflt size m = true → Memory.wf dflt size m' = true →
    (∀ a, Memory.read dflt m a = Memory.read dflt m' a) → m = m'

/-! ### Whole-machine rules -/

/-- The access map of R64, write side, over all micro-ops and the handler action: whatever `exec` answers, each
register is unchanged unless the micro-op is one that the map lists for it; the hidden bits `SETTLED` and `STB_STALE`
are among them. The last clause is about the model's own fields (log entries 4 and 5). -/
def Obligations.OnlyTheListedMicroOpsWrite : Prop :=
  ∀ (i : Instr) (s t : State), exec i s = .next t →
    (t.addr = s.addr ∨ i = .ainc) ∧ (t.row = s.row ∨ ∃ m, i = .loopRow m) ∧ (t.word = s.word ∨ ∃ m, i = .loopWord m) ∧
    (t.tok = s.tok ∨ ∃ m, i = .loopTok m) ∧ (t.cap = s.cap ∨ i ∈ [Instr.smpH, .smpL]) ∧
    (t.ce = s.ce ∨ i ∈ [Instr.ceOn, .ceOff]) ∧ (t.oe = s.oe ∨ i ∈ [Instr.oeOn, .oeOff]) ∧
    (t.stb = s.stb ∨ i ∈ [Instr.stbH, .stbL]) ∧ (t.pinAlo = s.pinAlo ∨ i = .drvLo) ∧
    (t.pinAmid = s.pinAmid ∨ i = .drvMid) ∧ (t.pinAhi = s.pinAhi ∨ i = .drvHi) ∧
    (t.settled = s.settled ∨
      i ∈ [Instr.ceOn, .ceOff, .oeOn, .oeOff, .stbH, .stbL, .drvLo, .drvMid, .drvHi, .settle]) ∧
    (t.stbStale = s.stbStale ∨ i ∈ [Instr.stbH, .stbL, .drvLo, .drvMid, .drvHi]) ∧
    ((∀ k, t.txAt k = s.txAt k) ∨ i ∈ [Instr.txLoadBanner, .txLoadHex, .txLoadCrlf]) ∧
    (t.pending = s.pending ∧ t.cursor = s.cursor ∨ i ∈ [Instr.txLoadBanner, .txLoadHex, .txLoadCrlf, .txc]) ∧
    (t.busy = s.busy ∨ i ∈ [Instr.txLoadBanner, .txLoadHex, .txLoadCrlf, .txc]) ∧
    (t.im = s.im ∨ i = .txClaim) ∧ (t.serOn = s.serOn ∨ i = .serInit) ∧
    (t.ready = s.ready ∧ t.inflight = s.inflight ∨ i ∈ [Instr.txPush0, .txc]) ∧ (t.tcPend = s.tcPend ∨ i = .txc) ∧
    t.line = s.line ∧ (i = .txc → t.upc = s.upc) ∧ t.cs = s.cs ∧ t.rom = s.rom ∧ t.params = s.params ∧
    (t.fault = s.fault ∨ i ∈ [Instr.txLoadBanner, .txLoadHex, .txLoadCrlf, .txPush0, .txc]) ∧
    ((t.draws = s.draws ∨ i ∈ [Instr.smpH, .smpL]) ∧ t.turn = s.turn ∧ t.clock = s.clock ∧ t.txcWait = s.txcWait ∧
      t.seqWait = s.seqWait)

/-- From R60, R299: the only step that changes `LINE` is the transmitter's shift, which appends the unit in flight. -/
def Obligations.LineGrowsOnlyByShifts : Prop :=
  ∀ s t : State, step s = .next t →
    t.line = s.line ∨ (s.mover = .ser ∧ ∃ u, s.inflight = some u ∧ t.line = s.line ++ [u] ∧ t.inflight = none)

/-- From R52: only a TX_LOAD step of SEQ sets `BUSY` and only a handler invocation with nothing pending clears it. -/
def Obligations.BusyHasOneSetterAndOneClearer : Prop :=
  ∀ s t : State, step s = .next t →
    (s.busy = false → t.busy = true → s.mover = .seq ∧
      ∃ i, i ∈ [Instr.txLoadBanner, .txLoadHex, .txLoadCrlf] ∧ decodeFetched s.fetchWord = .ok i) ∧
    (s.busy = true → t.busy = false → s.mover = .txc ∧ s.pending = 0)

/-- R286: `TC_PEND` is set only by the shift step and cleared only by the handler invocation that consumes it, and no
other micro-op writes it or reads it: run with another value of it, the micro-op answers the same state but for it. -/
def Obligations.NotificationIsPrivateToShiftAndHandler : Prop :=
  (∀ s t : State, step s = .next t →
    (s.tcPend = false → t.tcPend = true → s.mover = .ser ∧ s.inflight ≠ none) ∧
    (s.tcPend = true → t.tcPend = false → s.mover = .txc)) ∧
  (∀ (i : Instr) (s t : State) (b : Bool), i ≠ .txc → exec i s = .next t →
    t.tcPend = s.tcPend ∧ exec i { s with tcPend := b } = .next { t with tcPend := b })

/-- From R288, R289: a handler step leaves `upc`, every sequencer register and pin, the buffer's contents and the line
as they were; only the named transmit state, the fault mark and the model's own schedule fields change. -/
def Obligations.HandlerLeavesTheSequencerAlone : Prop :=
  ∀ s t : State, s.mover = .txc → step s = .next t →
    t = { s with tcPend := t.tcPend, pending := t.pending, cursor := t.cursor, busy := t.busy, ready := t.ready,
                 inflight := t.inflight, fault := t.fault, turn := t.turn, clock := t.clock, txcWait := t.txcWait,
                 seqWait := t.seqWait }

/-- From R97 and the preamble of 41_bus_read.md: a handler invocation before or after a micro-op that shares no state
with it gives the same state. -/
def Obligations.HandlerCommutesWithUnsharedMicroOps : Prop :=
  ∀ (i : Instr) (s : State),
    i ∉ [Instr.txClaim, .txLoadBanner, .txLoadHex, .txLoadCrlf, .txWaitRdy, .txPush0] →
    andThen (exec i s) (exec .txc) = andThen (exec .txc s) (exec i)

/-- From R55: `IM` is 0 at every step boundary, and TX_CLAIM leaves it 0 from any state. -/
def Obligations.MaskIsOpenBetweenSteps : Prop :=
  (∀ s t : State, s.im = false → step s = .next t → t.im = false) ∧
  (∀ s t : State, exec .txClaim s = .next t → t.im = false)

/-- From R304: in an ended run of a machine with the fixed control store whose transmitter is ready, only SEQ moves,
and its IDLE step changes nothing but the model's own schedule fields (log entry 5): `LINE` is final. The pipeline
invariant makes the transmitter ready in every ended run. -/
def Obligations.EndedMachineOnlyIdles : Prop :=
  (∀ s : State, s.cs = [] → s.Ended → s.ready = true →
    s.enabled .txc = false ∧ s.enabled .ser = false ∧ step s = .next (s.passTurn .seq) ∧ (s.passTurn .seq).Ended) ∧
  (∀ s : State, s.Pipeline → s.Ended → s.ready = true)

/-! ### Laws of the synchronizer and of the fixed micro-program -/

/-- From R167, R295, R297 (the completion-handler property): with `n` units pending and a notification latched, `n`
rounds of handler and shift put exactly those `n` units on the line, in order, with `BUSY` untouched, and the next
invocation clears `BUSY` and pushes nothing; with none pending the first invocation does so. -/
def Obligations.HandlerDrainsTheMessage : Prop :=
  ∀ (n : Nat) (s : State), s.pending = n → s.tcPend = true → s.ready = true → s.inflight = none →
    s.cursor + n ≤ s.params.txbufCap →
    ∃ t, drainRounds n s = .next t ∧ t.line = s.line ++ s.txUnits s.cursor n ∧ t.pending = 0 ∧
      t.cursor = s.cursor + n ∧ t.busy = s.busy ∧ t.tcPend = true ∧ t.upc = s.upc ∧
      exec .txc t = .next { t with tcPend := false, busy := false } ∧ t.inflight = none

/-- From R163 to R167, R242 to R244, R246, R295 to R297 (the pipeline invariant, with `L` the length of the message last
loaded): every step of every agent keeps the pipeline invariant of the fixed micro-program, and none raises a fault. -/
def Obligations.PipelineInvariantIsKept : Prop :=
  ∀ s t : State, s.Fixed → s.Pipeline → step s = .next t → t.Fixed ∧ t.Pipeline

/-- From R201 to R213, R242 to R246 (address, pins, settled samples, captured bytes): every step keeps the walk
invariant. -/
def Obligations.WalkInvariantIsKept : Prop :=
  ∀ s t : State, s.Fixed → s.Walk → step s = .next t → t.Walk

/-- From R127, R246 and the two invariants above (the output stream): with the settle margin met, every step keeps the
line and the unsent units together equal to the messages loaded so far. -/
def Obligations.OutputInvariantIsKept : Prop :=
  ∀ s t : State, s.Fixed → s.Pipeline → s.Walk → s.params.tMin ≤ s.params.tSettle → s.Output →
    step s = .next t → t.Output

/-- All four invariants hold at reset, for any choice of the unspecified registers and any legal parameters. -/
def Obligations.InvariantsHoldAtReset : Prop :=
  ∀ (u : Unspecified) (p : Params), p.Legal →
    (State.resetWith u p).Fixed ∧ (State.resetWith u p).Pipeline ∧ (State.resetWith u p).Walk ∧
      (State.resetWith u p).Output

/-- From R127, R257: under the invariants the line is a prefix of the banner and the lines of all rows, and in an ended
run it is all of it. -/
def Obligations.LineIsAPrefixOfTheDump : Prop :=
  ∀ s : State, s.Fixed → s.Pipeline → s.Walk → s.Output →
    s.line <+: s.stream s.params.numRows ∧ (s.Ended → s.line = s.stream s.params.numRows)

/-- From R127, R259: `n` rows make a stream of `11 + 66 n` bytes; every line is 64 lowercase hex characters and
CR LF; the hardware's whole stream has 4,325,387 bytes. The numeric character codes are the ASCII codes R125 marks as
general knowledge (PRESUMED, log entry 16). -/
def Obligations.ShapeOfTheStream : Prop :=
  (∀ (s : State) (n : Nat), (s.stream n).length = 11 + 66 * n) ∧
  (∀ (s : State) (r : Nat), ∃ hs : List Byte, s.lineOf r = hs ++ [0x0D#8, 0x0A#8] ∧ hs.length = 64 ∧
    ∀ c ∈ hs, (0x30 ≤ c.toNat ∧ c.toNat ≤ 0x39) ∨ (0x61 ≤ c.toNat ∧ c.toNat ≤ 0x66)) ∧
  (State.reset.stream State.reset.params.numRows).length = 4325387

/-- From R321, R246: two runs of the fixed micro-program from reset states that differ only in the registers R321
leaves unspecified put the same bytes on the line at every step, given the same schedule and draws. -/
def Obligations.UnspecifiedResetValuesAreUnobservable : Prop :=
  ∀ (u v : Unspecified) (p : Params) (n : Nat), p.Legal →
    ((State.resetWith u p).trace n).line = ((State.resetWith v p).trace n).line ∧
    ((State.resetWith u p).trace n).upc = ((State.resetWith v p).trace n).upc

/-! ### Fairness and stuck runs -/

/-- From R287, R292 (F1), (F2): on every run, from any state, TXC and SEQ each move again and again unless they stop
being enabled; an enabled TXC moves, or a fault stops it, within the number of steps its bound on waiting still gives
(the bound, any finite number, is the model's own: log entry 5). -/
def Obligations.BlockIsFairOnEveryRun : Prop :=
  (∀ s : State, BlockFair s.trace) ∧
  (∀ s : State, s.enabled .txc = true →
    ∃ n, n ≤ s.txcWait ∧ ((s.trace n).mover = .txc ∨ (s.trace n).fault ≠ none))

/-- From R298, R304: a run that is stuck from a state on keeps that state for ever, but for the model's own schedule
fields (log entry 5), so it never ends; and unless the transmitter has no step there, `SER_LIVE` is false of it. -/
def Obligations.StuckRunsNeverMoveOn : Prop :=
  ∀ s : State, s.Stuck →
    (∀ n, s.trace n = s.withSchedule (s.trace n) ∧ ¬ (s.trace n).Ended) ∧
    (SerLive s.trace → s.enabled .ser = false)

/-- From R165, R298, R304: a spin in which the transmitter has no step is stuck; and a spin in which it has one goes on
unchanged, but for the model's own schedule fields (log entry 5), for as long as the transmitter does not take it. -/
def Obligations.SpinsLastUntilTheTransmitterMoves : Prop :=
  ∀ s : State, s.Spinning →
    (s.enabled .ser = false → s.Stuck) ∧
    (∀ n, (∀ k, k < n → (s.trace k).mover ≠ .ser) →
      s.trace n = s.withSchedule (s.trace n) ∧ (s.trace n).Spinning)
end

