-- ==== Sys2Proof/Laws/Decode.lean ====
section
/-!
SUPPORT. The fields of a micro-word, and what each part of the decoder accepts (30_encoding.md R128 to R131).
-/
namespace Sys2Proof

@[simp] theorem opField_packWord (op imm : Byte) : opField (packWord op imm) = op := by
  unfold opField packWord
  ext i hi
  simp only [BitVec.getElem_extractLsb', BitVec.getLsbD_append]
  have : ¬ 8 + i < 8 := by omega
  simp [this, hi, BitVec.getLsbD_eq_getElem]

@[simp] theorem immField_packWord (op imm : Byte) : immField (packWord op imm) = imm := by
  unfold immField packWord
  ext i hi
  simp only [BitVec.getElem_extractLsb', BitVec.getLsbD_append]
  simp [hi, BitVec.getLsbD_eq_getElem]

/-- A word is its two fields. -/
@[simp] theorem packWord_fields (w : Word) : packWord (opField w) (immField w) = w := by
  unfold packWord opField immField
  ext i hi
  rw [← BitVec.getLsbD_eq_getElem, ← BitVec.getLsbD_eq_getElem, BitVec.getLsbD_append]
  by_cases h : i < 8
  · simp [h]
  · have h8 : i - 8 < 8 := by omega
    have : 8 + (i - 8) = i := by omega
    simp [h, h8, this, -Nat.add_sub_cancel']

theorem packWord_inj {op op' imm imm' : Byte} : packWord op imm = packWord op' imm' ↔ op = op' ∧ imm = imm' := by
  constructor
  · intro h
    exact ⟨by simpa using congrArg opField h, by simpa using congrArg immField h⟩
  · rintro ⟨rfl, rfl⟩; rfl

@[simp] theorem decode_packWord (op imm : Byte) : decode (packWord op imm) = decodeFields op imm := by
  simp [decode]

@[simp] theorem wordOfBits_toNat (w : Word) : wordOfBits 16 w.toNat = w := by
  unfold wordOfBits
  rw [Nat.mod_eq_of_lt w.isLt]
  simp

theorem decodePlain_ok {i j : Instr} {imm : Byte} : decodePlain i imm = .ok j ↔ imm = 0x00#8 ∧ j = i := by
  unfold decodePlain
  by_cases h : imm = 0x00#8
  · rw [if_pos h, Except.ok.injEq]; exact ⟨fun e => ⟨h, e.symm⟩, fun e => e.2.symm⟩
  · rw [if_neg h]; exact ⟨nofun, fun e => absurd e.1 h⟩

theorem decodeLoad_ok {j : Instr} {imm : Byte} :
    decodeLoad imm = .ok j ↔
      (imm = 0x00#8 ∧ j = .txLoadBanner) ∨ (imm = 0x01#8 ∧ j = .txLoadHex) ∨ (imm = 0x02#8 ∧ j = .txLoadCrlf) := by
  unfold decodeLoad
  by_cases h0 : imm = 0x00#8
  · subst h0; rw [if_pos rfl, Except.ok.injEq]; constructor
    · rintro rfl; exact .inl ⟨rfl, rfl⟩
    · rintro (⟨-, rfl⟩ | ⟨h, -⟩ | ⟨h, -⟩)
      · rfl
      · exact absurd h (by decide)
      · exact absurd h (by decide)
  · by_cases h1 : imm = 0x01#8
    · subst h1; rw [if_neg h0, if_pos rfl, Except.ok.injEq]; constructor
      · rintro rfl; exact .inr (.inl ⟨rfl, rfl⟩)
      · rintro (⟨h, -⟩ | ⟨-, rfl⟩ | ⟨h, -⟩)
        · exact absurd h h0
        · rfl
        · exact absurd h (by decide)
    · by_cases h2 : imm = 0x02#8
      · subst h2; rw [if_neg h0, if_neg h1, if_pos rfl, Except.ok.injEq]; constructor
        · rintro rfl; exact .inr (.inr ⟨rfl, rfl⟩)
        · rintro (⟨h, -⟩ | ⟨h, -⟩ | ⟨-, rfl⟩)
          · exact absurd h h0
          · exact absurd h h1
          · rfl
      · rw [if_neg h0, if_neg h1, if_neg h2]
        refine ⟨nofun, ?_⟩
        rintro (⟨h, -⟩ | ⟨h, -⟩ | ⟨h, -⟩) <;> contradiction

theorem decodeLoop_ok {f : Byte → Instr} {j : Instr} {imm : Byte} :
    decodeLoop f imm = .ok j ↔ IsTarget imm ∧ j = f imm := by
  unfold decodeLoop
  by_cases h : IsTarget imm
  · rw [if_pos h, Except.ok.injEq]; exact ⟨fun e => ⟨h, e.symm⟩, fun e => e.2.symm⟩
  · rw [if_neg h]; exact ⟨nofun, fun e => absurd e.1 h⟩

theorem decodeFetched_ok {w : Word} {i : Instr} : decodeFetched w = .ok i ↔ decode w = .ok i ∧ i ≠ .txc := by
  unfold decodeFetched
  cases h : decode w with
  | error e => simp
  | ok j =>
    by_cases hj : j = .txc
    · simp only [hj, if_true, reduceCtorEq, false_iff]; rintro ⟨h1, h2⟩; cases h1; exact h2 rfl
    · simp only [hj, if_false, Except.ok.injEq]
      constructor
      · rintro rfl; exact ⟨rfl, hj⟩
      · rintro ⟨rfl, _⟩; rfl

theorem Instr.wellFormed_iff (i : Instr) : i.wellFormed = true ↔ i.WellFormed := by
  cases i <;> simp [Instr.wellFormed, Instr.WellFormed, IsTarget]

theorem decodeTableWord_eq {n w : Nat} {i : Instr} :
    decodeTableWord n w = some i ↔ decode (wordOfBits n w) = .ok i := by
  unfold decodeTableWord
  cases decode (wordOfBits n w) <;> simp

end Sys2Proof
end

