-- ==== Sys2Proof/Laws/State.lean ====
section
/-!
SUPPORT. One lemma per field per named update of State (Ops.lean, Agents.lean), each true by definition, so that no
later proof unfolds a record update. The lemma State.<update>_<field> says what the field holds after the update.
-/
namespace Sys2Proof.Machine

variable (s : State)

@[simp] theorem State.advance_upc : s.advance.upc = s.upc + 1#6 := rfl
@[simp] theorem State.advance_addr : s.advance.addr = s.addr := rfl
@[simp] theorem State.advance_row : s.advance.row = s.row := rfl
@[simp] theorem State.advance_word : s.advance.word = s.word := rfl
@[simp] theorem State.advance_tok : s.advance.tok = s.tok := rfl
@[simp] theorem State.advance_cap : s.advance.cap = s.cap := rfl
@[simp] theorem State.advance_ce : s.advance.ce = s.ce := rfl
@[simp] theorem State.advance_oe : s.advance.oe = s.oe := rfl
@[simp] theorem State.advance_stb : s.advance.stb = s.stb := rfl
@[simp] theorem State.advance_pinAlo : s.advance.pinAlo = s.pinAlo := rfl
@[simp] theorem State.advance_pinAmid : s.advance.pinAmid = s.pinAmid := rfl
@[simp] theorem State.advance_pinAhi : s.advance.pinAhi = s.pinAhi := rfl
@[simp] theorem State.advance_settled : s.advance.settled = s.settled := rfl
@[simp] theorem State.advance_stbStale : s.advance.stbStale = s.stbStale := rfl
@[simp] theorem State.advance_txbuf : s.advance.txbuf = s.txbuf := rfl
@[simp] theorem State.advance_busy : s.advance.busy = s.busy := rfl
@[simp] theorem State.advance_pending : s.advance.pending = s.pending := rfl
@[simp] theorem State.advance_cursor : s.advance.cursor = s.cursor := rfl
@[simp] theorem State.advance_im : s.advance.im = s.im := rfl
@[simp] theorem State.advance_serOn : s.advance.serOn = s.serOn := rfl
@[simp] theorem State.advance_ready : s.advance.ready = s.ready := rfl
@[simp] theorem State.advance_inflight : s.advance.inflight = s.inflight := rfl
@[simp] theorem State.advance_tcPend : s.advance.tcPend = s.tcPend := rfl
@[simp] theorem State.advance_line : s.advance.line = s.line := rfl
@[simp] theorem State.advance_fault : s.advance.fault = s.fault := rfl
@[simp] theorem State.advance_cs : s.advance.cs = s.cs := rfl
@[simp] theorem State.advance_rom : s.advance.rom = s.rom := rfl
@[simp] theorem State.advance_params : s.advance.params = s.params := rfl
@[simp] theorem State.advance_turn : s.advance.turn = s.turn := rfl
@[simp] theorem State.advance_clock : s.advance.clock = s.clock := rfl
@[simp] theorem State.advance_txcWait : s.advance.txcWait = s.txcWait := rfl
@[simp] theorem State.advance_seqWait : s.advance.seqWait = s.seqWait := rfl
@[simp] theorem State.advance_draws : s.advance.draws = s.draws := rfl

@[simp] theorem State.branch_upc (t : Index) : (s.branch t).upc = t := rfl
@[simp] theorem State.branch_addr (t : Index) : (s.branch t).addr = s.addr := rfl
@[simp] theorem State.branch_row (t : Index) : (s.branch t).row = s.row := rfl
@[simp] theorem State.branch_word (t : Index) : (s.branch t).word = s.word := rfl
@[simp] theorem State.branch_tok (t : Index) : (s.branch t).tok = s.tok := rfl
@[simp] theorem State.branch_cap (t : Index) : (s.branch t).cap = s.cap := rfl
@[simp] theorem State.branch_ce (t : Index) : (s.branch t).ce = s.ce := rfl
@[simp] theorem State.branch_oe (t : Index) : (s.branch t).oe = s.oe := rfl
@[simp] theorem State.branch_stb (t : Index) : (s.branch t).stb = s.stb := rfl
@[simp] theorem State.branch_pinAlo (t : Index) : (s.branch t).pinAlo = s.pinAlo := rfl
@[simp] theorem State.branch_pinAmid (t : Index) : (s.branch t).pinAmid = s.pinAmid := rfl
@[simp] theorem State.branch_pinAhi (t : Index) : (s.branch t).pinAhi = s.pinAhi := rfl
@[simp] theorem State.branch_settled (t : Index) : (s.branch t).settled = s.settled := rfl
@[simp] theorem State.branch_stbStale (t : Index) : (s.branch t).stbStale = s.stbStale := rfl
@[simp] theorem State.branch_txbuf (t : Index) : (s.branch t).txbuf = s.txbuf := rfl
@[simp] theorem State.branch_busy (t : Index) : (s.branch t).busy = s.busy := rfl
@[simp] theorem State.branch_pending (t : Index) : (s.branch t).pending = s.pending := rfl
@[simp] theorem State.branch_cursor (t : Index) : (s.branch t).cursor = s.cursor := rfl
@[simp] theorem State.branch_im (t : Index) : (s.branch t).im = s.im := rfl
@[simp] theorem State.branch_serOn (t : Index) : (s.branch t).serOn = s.serOn := rfl
@[simp] theorem State.branch_ready (t : Index) : (s.branch t).ready = s.ready := rfl
@[simp] theorem State.branch_inflight (t : Index) : (s.branch t).inflight = s.inflight := rfl
@[simp] theorem State.branch_tcPend (t : Index) : (s.branch t).tcPend = s.tcPend := rfl
@[simp] theorem State.branch_line (t : Index) : (s.branch t).line = s.line := rfl
@[simp] theorem State.branch_fault (t : Index) : (s.branch t).fault = s.fault := rfl
@[simp] theorem State.branch_cs (t : Index) : (s.branch t).cs = s.cs := rfl
@[simp] theorem State.branch_rom (t : Index) : (s.branch t).rom = s.rom := rfl
@[simp] theorem State.branch_params (t : Index) : (s.branch t).params = s.params := rfl
@[simp] theorem State.branch_turn (t : Index) : (s.branch t).turn = s.turn := rfl
@[simp] theorem State.branch_clock (t : Index) : (s.branch t).clock = s.clock := rfl
@[simp] theorem State.branch_txcWait (t : Index) : (s.branch t).txcWait = s.txcWait := rfl
@[simp] theorem State.branch_seqWait (t : Index) : (s.branch t).seqWait = s.seqWait := rfl
@[simp] theorem State.branch_draws (t : Index) : (s.branch t).draws = s.draws := rfl

@[simp] theorem State.stepAddr_upc : s.stepAddr.upc = s.upc := rfl
@[simp] theorem State.stepAddr_addr : s.stepAddr.addr = s.addr + 1#20 := rfl
@[simp] theorem State.stepAddr_row : s.stepAddr.row = s.row := rfl
@[simp] theorem State.stepAddr_word : s.stepAddr.word = s.word := rfl
@[simp] theorem State.stepAddr_tok : s.stepAddr.tok = s.tok := rfl
@[simp] theorem State.stepAddr_cap : s.stepAddr.cap = s.cap := rfl
@[simp] theorem State.stepAddr_ce : s.stepAddr.ce = s.ce := rfl
@[simp] theorem State.stepAddr_oe : s.stepAddr.oe = s.oe := rfl
@[simp] theorem State.stepAddr_stb : s.stepAddr.stb = s.stb := rfl
@[simp] theorem State.stepAddr_pinAlo : s.stepAddr.pinAlo = s.pinAlo := rfl
@[simp] theorem State.stepAddr_pinAmid : s.stepAddr.pinAmid = s.pinAmid := rfl
@[simp] theorem State.stepAddr_pinAhi : s.stepAddr.pinAhi = s.pinAhi := rfl
@[simp] theorem State.stepAddr_settled : s.stepAddr.settled = s.settled := rfl
@[simp] theorem State.stepAddr_stbStale : s.stepAddr.stbStale = s.stbStale := rfl
@[simp] theorem State.stepAddr_txbuf : s.stepAddr.txbuf = s.txbuf := rfl
@[simp] theorem State.stepAddr_busy : s.stepAddr.busy = s.busy := rfl
@[simp] theorem State.stepAddr_pending : s.stepAddr.pending = s.pending := rfl
@[simp] theorem State.stepAddr_cursor : s.stepAddr.cursor = s.cursor := rfl
@[simp] theorem State.stepAddr_im : s.stepAddr.im = s.im := rfl
@[simp] theorem State.stepAddr_serOn : s.stepAddr.serOn = s.serOn := rfl
@[simp] theorem State.stepAddr_ready : s.stepAddr.ready = s.ready := rfl
@[simp] theorem State.stepAddr_inflight : s.stepAddr.inflight = s.inflight := rfl
@[simp] theorem State.stepAddr_tcPend : s.stepAddr.tcPend = s.tcPend := rfl
@[simp] theorem State.stepAddr_line : s.stepAddr.line = s.line := rfl
@[simp] theorem State.stepAddr_fault : s.stepAddr.fault = s.fault := rfl
@[simp] theorem State.stepAddr_cs : s.stepAddr.cs = s.cs := rfl
@[simp] theorem State.stepAddr_rom : s.stepAddr.rom = s.rom := rfl
@[simp] theorem State.stepAddr_params : s.stepAddr.params = s.params := rfl
@[simp] theorem State.stepAddr_turn : s.stepAddr.turn = s.turn := rfl
@[simp] theorem State.stepAddr_clock : s.stepAddr.clock = s.clock := rfl
@[simp] theorem State.stepAddr_txcWait : s.stepAddr.txcWait = s.txcWait := rfl
@[simp] theorem State.stepAddr_seqWait : s.stepAddr.seqWait = s.seqWait := rfl
@[simp] theorem State.stepAddr_draws : s.stepAddr.draws = s.draws := rfl

@[simp] theorem State.setWord_upc (w : BitVec 4) : (s.setWord w).upc = s.upc := rfl
@[simp] theorem State.setWord_addr (w : BitVec 4) : (s.setWord w).addr = s.addr := rfl
@[simp] theorem State.setWord_row (w : BitVec 4) : (s.setWord w).row = s.row := rfl
@[simp] theorem State.setWord_word (w : BitVec 4) : (s.setWord w).word = w := rfl
@[simp] theorem State.setWord_tok (w : BitVec 4) : (s.setWord w).tok = s.tok := rfl
@[simp] theorem State.setWord_cap (w : BitVec 4) : (s.setWord w).cap = s.cap := rfl
@[simp] theorem State.setWord_ce (w : BitVec 4) : (s.setWord w).ce = s.ce := rfl
@[simp] theorem State.setWord_oe (w : BitVec 4) : (s.setWord w).oe = s.oe := rfl
@[simp] theorem State.setWord_stb (w : BitVec 4) : (s.setWord w).stb = s.stb := rfl
@[simp] theorem State.setWord_pinAlo (w : BitVec 4) : (s.setWord w).pinAlo = s.pinAlo := rfl
@[simp] theorem State.setWord_pinAmid (w : BitVec 4) : (s.setWord w).pinAmid = s.pinAmid := rfl
@[simp] theorem State.setWord_pinAhi (w : BitVec 4) : (s.setWord w).pinAhi = s.pinAhi := rfl
@[simp] theorem State.setWord_settled (w : BitVec 4) : (s.setWord w).settled = s.settled := rfl
@[simp] theorem State.setWord_stbStale (w : BitVec 4) : (s.setWord w).stbStale = s.stbStale := rfl
@[simp] theorem State.setWord_txbuf (w : BitVec 4) : (s.setWord w).txbuf = s.txbuf := rfl
@[simp] theorem State.setWord_busy (w : BitVec 4) : (s.setWord w).busy = s.busy := rfl
@[simp] theorem State.setWord_pending (w : BitVec 4) : (s.setWord w).pending = s.pending := rfl
@[simp] theorem State.setWord_cursor (w : BitVec 4) : (s.setWord w).cursor = s.cursor := rfl
@[simp] theorem State.setWord_im (w : BitVec 4) : (s.setWord w).im = s.im := rfl
@[simp] theorem State.setWord_serOn (w : BitVec 4) : (s.setWord w).serOn = s.serOn := rfl
@[simp] theorem State.setWord_ready (w : BitVec 4) : (s.setWord w).ready = s.ready := rfl
@[simp] theorem State.setWord_inflight (w : BitVec 4) : (s.setWord w).inflight = s.inflight := rfl
@[simp] theorem State.setWord_tcPend (w : BitVec 4) : (s.setWord w).tcPend = s.tcPend := rfl
@[simp] theorem State.setWord_line (w : BitVec 4) : (s.setWord w).line = s.line := rfl
@[simp] theorem State.setWord_fault (w : BitVec 4) : (s.setWord w).fault = s.fault := rfl
@[simp] theorem State.setWord_cs (w : BitVec 4) : (s.setWord w).cs = s.cs := rfl
@[simp] theorem State.setWord_rom (w : BitVec 4) : (s.setWord w).rom = s.rom := rfl
@[simp] theorem State.setWord_params (w : BitVec 4) : (s.setWord w).params = s.params := rfl
@[simp] theorem State.setWord_turn (w : BitVec 4) : (s.setWord w).turn = s.turn := rfl
@[simp] theorem State.setWord_clock (w : BitVec 4) : (s.setWord w).clock = s.clock := rfl
@[simp] theorem State.setWord_txcWait (w : BitVec 4) : (s.setWord w).txcWait = s.txcWait := rfl
@[simp] theorem State.setWord_seqWait (w : BitVec 4) : (s.setWord w).seqWait = s.seqWait := rfl
@[simp] theorem State.setWord_draws (w : BitVec 4) : (s.setWord w).draws = s.draws := rfl

@[simp] theorem State.setTok_upc (t : BitVec 5) : (s.setTok t).upc = s.upc := rfl
@[simp] theorem State.setTok_addr (t : BitVec 5) : (s.setTok t).addr = s.addr := rfl
@[simp] theorem State.setTok_row (t : BitVec 5) : (s.setTok t).row = s.row := rfl
@[simp] theorem State.setTok_word (t : BitVec 5) : (s.setTok t).word = s.word := rfl
@[simp] theorem State.setTok_tok (t : BitVec 5) : (s.setTok t).tok = t := rfl
@[simp] theorem State.setTok_cap (t : BitVec 5) : (s.setTok t).cap = s.cap := rfl
@[simp] theorem State.setTok_ce (t : BitVec 5) : (s.setTok t).ce = s.ce := rfl
@[simp] theorem State.setTok_oe (t : BitVec 5) : (s.setTok t).oe = s.oe := rfl
@[simp] theorem State.setTok_stb (t : BitVec 5) : (s.setTok t).stb = s.stb := rfl
@[simp] theorem State.setTok_pinAlo (t : BitVec 5) : (s.setTok t).pinAlo = s.pinAlo := rfl
@[simp] theorem State.setTok_pinAmid (t : BitVec 5) : (s.setTok t).pinAmid = s.pinAmid := rfl
@[simp] theorem State.setTok_pinAhi (t : BitVec 5) : (s.setTok t).pinAhi = s.pinAhi := rfl
@[simp] theorem State.setTok_settled (t : BitVec 5) : (s.setTok t).settled = s.settled := rfl
@[simp] theorem State.setTok_stbStale (t : BitVec 5) : (s.setTok t).stbStale = s.stbStale := rfl
@[simp] theorem State.setTok_txbuf (t : BitVec 5) : (s.setTok t).txbuf = s.txbuf := rfl
@[simp] theorem State.setTok_busy (t : BitVec 5) : (s.setTok t).busy = s.busy := rfl
@[simp] theorem State.setTok_pending (t : BitVec 5) : (s.setTok t).pending = s.pending := rfl
@[simp] theorem State.setTok_cursor (t : BitVec 5) : (s.setTok t).cursor = s.cursor := rfl
@[simp] theorem State.setTok_im (t : BitVec 5) : (s.setTok t).im = s.im := rfl
@[simp] theorem State.setTok_serOn (t : BitVec 5) : (s.setTok t).serOn = s.serOn := rfl
@[simp] theorem State.setTok_ready (t : BitVec 5) : (s.setTok t).ready = s.ready := rfl
@[simp] theorem State.setTok_inflight (t : BitVec 5) : (s.setTok t).inflight = s.inflight := rfl
@[simp] theorem State.setTok_tcPend (t : BitVec 5) : (s.setTok t).tcPend = s.tcPend := rfl
@[simp] theorem State.setTok_line (t : BitVec 5) : (s.setTok t).line = s.line := rfl
@[simp] theorem State.setTok_fault (t : BitVec 5) : (s.setTok t).fault = s.fault := rfl
@[simp] theorem State.setTok_cs (t : BitVec 5) : (s.setTok t).cs = s.cs := rfl
@[simp] theorem State.setTok_rom (t : BitVec 5) : (s.setTok t).rom = s.rom := rfl
@[simp] theorem State.setTok_params (t : BitVec 5) : (s.setTok t).params = s.params := rfl
@[simp] theorem State.setTok_turn (t : BitVec 5) : (s.setTok t).turn = s.turn := rfl
@[simp] theorem State.setTok_clock (t : BitVec 5) : (s.setTok t).clock = s.clock := rfl
@[simp] theorem State.setTok_txcWait (t : BitVec 5) : (s.setTok t).txcWait = s.txcWait := rfl
@[simp] theorem State.setTok_seqWait (t : BitVec 5) : (s.setTok t).seqWait = s.seqWait := rfl
@[simp] theorem State.setTok_draws (t : BitVec 5) : (s.setTok t).draws = s.draws := rfl

@[simp] theorem State.setRow_upc (r : BitVec 16) : (s.setRow r).upc = s.upc := rfl
@[simp] theorem State.setRow_addr (r : BitVec 16) : (s.setRow r).addr = s.addr := rfl
@[simp] theorem State.setRow_row (r : BitVec 16) : (s.setRow r).row = r := rfl
@[simp] theorem State.setRow_word (r : BitVec 16) : (s.setRow r).word = s.word := rfl
@[simp] theorem State.setRow_tok (r : BitVec 16) : (s.setRow r).tok = s.tok := rfl
@[simp] theorem State.setRow_cap (r : BitVec 16) : (s.setRow r).cap = s.cap := rfl
@[simp] theorem State.setRow_ce (r : BitVec 16) : (s.setRow r).ce = s.ce := rfl
@[simp] theorem State.setRow_oe (r : BitVec 16) : (s.setRow r).oe = s.oe := rfl
@[simp] theorem State.setRow_stb (r : BitVec 16) : (s.setRow r).stb = s.stb := rfl
@[simp] theorem State.setRow_pinAlo (r : BitVec 16) : (s.setRow r).pinAlo = s.pinAlo := rfl
@[simp] theorem State.setRow_pinAmid (r : BitVec 16) : (s.setRow r).pinAmid = s.pinAmid := rfl
@[simp] theorem State.setRow_pinAhi (r : BitVec 16) : (s.setRow r).pinAhi = s.pinAhi := rfl
@[simp] theorem State.setRow_settled (r : BitVec 16) : (s.setRow r).settled = s.settled := rfl
@[simp] theorem State.setRow_stbStale (r : BitVec 16) : (s.setRow r).stbStale = s.stbStale := rfl
@[simp] theorem State.setRow_txbuf (r : BitVec 16) : (s.setRow r).txbuf = s.txbuf := rfl
@[simp] theorem State.setRow_busy (r : BitVec 16) : (s.setRow r).busy = s.busy := rfl
@[simp] theorem State.setRow_pending (r : BitVec 16) : (s.setRow r).pending = s.pending := rfl
@[simp] theorem State.setRow_cursor (r : BitVec 16) : (s.setRow r).cursor = s.cursor := rfl
@[simp] theorem State.setRow_im (r : BitVec 16) : (s.setRow r).im = s.im := rfl
@[simp] theorem State.setRow_serOn (r : BitVec 16) : (s.setRow r).serOn = s.serOn := rfl
@[simp] theorem State.setRow_ready (r : BitVec 16) : (s.setRow r).ready = s.ready := rfl
@[simp] theorem State.setRow_inflight (r : BitVec 16) : (s.setRow r).inflight = s.inflight := rfl
@[simp] theorem State.setRow_tcPend (r : BitVec 16) : (s.setRow r).tcPend = s.tcPend := rfl
@[simp] theorem State.setRow_line (r : BitVec 16) : (s.setRow r).line = s.line := rfl
@[simp] theorem State.setRow_fault (r : BitVec 16) : (s.setRow r).fault = s.fault := rfl
@[simp] theorem State.setRow_cs (r : BitVec 16) : (s.setRow r).cs = s.cs := rfl
@[simp] theorem State.setRow_rom (r : BitVec 16) : (s.setRow r).rom = s.rom := rfl
@[simp] theorem State.setRow_params (r : BitVec 16) : (s.setRow r).params = s.params := rfl
@[simp] theorem State.setRow_turn (r : BitVec 16) : (s.setRow r).turn = s.turn := rfl
@[simp] theorem State.setRow_clock (r : BitVec 16) : (s.setRow r).clock = s.clock := rfl
@[simp] theorem State.setRow_txcWait (r : BitVec 16) : (s.setRow r).txcWait = s.txcWait := rfl
@[simp] theorem State.setRow_seqWait (r : BitVec 16) : (s.setRow r).seqWait = s.seqWait := rfl
@[simp] theorem State.setRow_draws (r : BitVec 16) : (s.setRow r).draws = s.draws := rfl

@[simp] theorem State.putCap_upc (i : Fin 32) (b : Byte) : (s.putCap i b).upc = s.upc := rfl
@[simp] theorem State.putCap_addr (i : Fin 32) (b : Byte) : (s.putCap i b).addr = s.addr := rfl
@[simp] theorem State.putCap_row (i : Fin 32) (b : Byte) : (s.putCap i b).row = s.row := rfl
@[simp] theorem State.putCap_word (i : Fin 32) (b : Byte) : (s.putCap i b).word = s.word := rfl
@[simp] theorem State.putCap_tok (i : Fin 32) (b : Byte) : (s.putCap i b).tok = s.tok := rfl
@[simp] theorem State.putCap_cap (i : Fin 32) (b : Byte) : (s.putCap i b).cap = s.cap.set i.1 b i.2 := rfl
@[simp] theorem State.putCap_ce (i : Fin 32) (b : Byte) : (s.putCap i b).ce = s.ce := rfl
@[simp] theorem State.putCap_oe (i : Fin 32) (b : Byte) : (s.putCap i b).oe = s.oe := rfl
@[simp] theorem State.putCap_stb (i : Fin 32) (b : Byte) : (s.putCap i b).stb = s.stb := rfl
@[simp] theorem State.putCap_pinAlo (i : Fin 32) (b : Byte) : (s.putCap i b).pinAlo = s.pinAlo := rfl
@[simp] theorem State.putCap_pinAmid (i : Fin 32) (b : Byte) : (s.putCap i b).pinAmid = s.pinAmid := rfl
@[simp] theorem State.putCap_pinAhi (i : Fin 32) (b : Byte) : (s.putCap i b).pinAhi = s.pinAhi := rfl
@[simp] theorem State.putCap_settled (i : Fin 32) (b : Byte) : (s.putCap i b).settled = s.settled := rfl
@[simp] theorem State.putCap_stbStale (i : Fin 32) (b : Byte) : (s.putCap i b).stbStale = s.stbStale := rfl
@[simp] theorem State.putCap_txbuf (i : Fin 32) (b : Byte) : (s.putCap i b).txbuf = s.txbuf := rfl
@[simp] theorem State.putCap_busy (i : Fin 32) (b : Byte) : (s.putCap i b).busy = s.busy := rfl
@[simp] theorem State.putCap_pending (i : Fin 32) (b : Byte) : (s.putCap i b).pending = s.pending := rfl
@[simp] theorem State.putCap_cursor (i : Fin 32) (b : Byte) : (s.putCap i b).cursor = s.cursor := rfl
@[simp] theorem State.putCap_im (i : Fin 32) (b : Byte) : (s.putCap i b).im = s.im := rfl
@[simp] theorem State.putCap_serOn (i : Fin 32) (b : Byte) : (s.putCap i b).serOn = s.serOn := rfl
@[simp] theorem State.putCap_ready (i : Fin 32) (b : Byte) : (s.putCap i b).ready = s.ready := rfl
@[simp] theorem State.putCap_inflight (i : Fin 32) (b : Byte) : (s.putCap i b).inflight = s.inflight := rfl
@[simp] theorem State.putCap_tcPend (i : Fin 32) (b : Byte) : (s.putCap i b).tcPend = s.tcPend := rfl
@[simp] theorem State.putCap_line (i : Fin 32) (b : Byte) : (s.putCap i b).line = s.line := rfl
@[simp] theorem State.putCap_fault (i : Fin 32) (b : Byte) : (s.putCap i b).fault = s.fault := rfl
@[simp] theorem State.putCap_cs (i : Fin 32) (b : Byte) : (s.putCap i b).cs = s.cs := rfl
@[simp] theorem State.putCap_rom (i : Fin 32) (b : Byte) : (s.putCap i b).rom = s.rom := rfl
@[simp] theorem State.putCap_params (i : Fin 32) (b : Byte) : (s.putCap i b).params = s.params := rfl
@[simp] theorem State.putCap_turn (i : Fin 32) (b : Byte) : (s.putCap i b).turn = s.turn := rfl
@[simp] theorem State.putCap_clock (i : Fin 32) (b : Byte) : (s.putCap i b).clock = s.clock := rfl
@[simp] theorem State.putCap_txcWait (i : Fin 32) (b : Byte) : (s.putCap i b).txcWait = s.txcWait := rfl
@[simp] theorem State.putCap_seqWait (i : Fin 32) (b : Byte) : (s.putCap i b).seqWait = s.seqWait := rfl
@[simp] theorem State.putCap_draws (i : Fin 32) (b : Byte) : (s.putCap i b).draws = s.draws := rfl

@[simp] theorem State.driveCe_upc (v : Bool) : (s.driveCe v).upc = s.upc := rfl
@[simp] theorem State.driveCe_addr (v : Bool) : (s.driveCe v).addr = s.addr := rfl
@[simp] theorem State.driveCe_row (v : Bool) : (s.driveCe v).row = s.row := rfl
@[simp] theorem State.driveCe_word (v : Bool) : (s.driveCe v).word = s.word := rfl
@[simp] theorem State.driveCe_tok (v : Bool) : (s.driveCe v).tok = s.tok := rfl
@[simp] theorem State.driveCe_cap (v : Bool) : (s.driveCe v).cap = s.cap := rfl
@[simp] theorem State.driveCe_ce (v : Bool) : (s.driveCe v).ce = v := rfl
@[simp] theorem State.driveCe_oe (v : Bool) : (s.driveCe v).oe = s.oe := rfl
@[simp] theorem State.driveCe_stb (v : Bool) : (s.driveCe v).stb = s.stb := rfl
@[simp] theorem State.driveCe_pinAlo (v : Bool) : (s.driveCe v).pinAlo = s.pinAlo := rfl
@[simp] theorem State.driveCe_pinAmid (v : Bool) : (s.driveCe v).pinAmid = s.pinAmid := rfl
@[simp] theorem State.driveCe_pinAhi (v : Bool) : (s.driveCe v).pinAhi = s.pinAhi := rfl
@[simp] theorem State.driveCe_settled (v : Bool) : (s.driveCe v).settled = false := rfl
@[simp] theorem State.driveCe_stbStale (v : Bool) : (s.driveCe v).stbStale = s.stbStale := rfl
@[simp] theorem State.driveCe_txbuf (v : Bool) : (s.driveCe v).txbuf = s.txbuf := rfl
@[simp] theorem State.driveCe_busy (v : Bool) : (s.driveCe v).busy = s.busy := rfl
@[simp] theorem State.driveCe_pending (v : Bool) : (s.driveCe v).pending = s.pending := rfl
@[simp] theorem State.driveCe_cursor (v : Bool) : (s.driveCe v).cursor = s.cursor := rfl
@[simp] theorem State.driveCe_im (v : Bool) : (s.driveCe v).im = s.im := rfl
@[simp] theorem State.driveCe_serOn (v : Bool) : (s.driveCe v).serOn = s.serOn := rfl
@[simp] theorem State.driveCe_ready (v : Bool) : (s.driveCe v).ready = s.ready := rfl
@[simp] theorem State.driveCe_inflight (v : Bool) : (s.driveCe v).inflight = s.inflight := rfl
@[simp] theorem State.driveCe_tcPend (v : Bool) : (s.driveCe v).tcPend = s.tcPend := rfl
@[simp] theorem State.driveCe_line (v : Bool) : (s.driveCe v).line = s.line := rfl
@[simp] theorem State.driveCe_fault (v : Bool) : (s.driveCe v).fault = s.fault := rfl
@[simp] theorem State.driveCe_cs (v : Bool) : (s.driveCe v).cs = s.cs := rfl
@[simp] theorem State.driveCe_rom (v : Bool) : (s.driveCe v).rom = s.rom := rfl
@[simp] theorem State.driveCe_params (v : Bool) : (s.driveCe v).params = s.params := rfl
@[simp] theorem State.driveCe_turn (v : Bool) : (s.driveCe v).turn = s.turn := rfl
@[simp] theorem State.driveCe_clock (v : Bool) : (s.driveCe v).clock = s.clock := rfl
@[simp] theorem State.driveCe_txcWait (v : Bool) : (s.driveCe v).txcWait = s.txcWait := rfl
@[simp] theorem State.driveCe_seqWait (v : Bool) : (s.driveCe v).seqWait = s.seqWait := rfl
@[simp] theorem State.driveCe_draws (v : Bool) : (s.driveCe v).draws = s.draws := rfl

@[simp] theorem State.driveOe_upc (v : Bool) : (s.driveOe v).upc = s.upc := rfl
@[simp] theorem State.driveOe_addr (v : Bool) : (s.driveOe v).addr = s.addr := rfl
@[simp] theorem State.driveOe_row (v : Bool) : (s.driveOe v).row = s.row := rfl
@[simp] theorem State.driveOe_word (v : Bool) : (s.driveOe v).word = s.word := rfl
@[simp] theorem State.driveOe_tok (v : Bool) : (s.driveOe v).tok = s.tok := rfl
@[simp] theorem State.driveOe_cap (v : Bool) : (s.driveOe v).cap = s.cap := rfl
@[simp] theorem State.driveOe_ce (v : Bool) : (s.driveOe v).ce = s.ce := rfl
@[simp] theorem State.driveOe_oe (v : Bool) : (s.driveOe v).oe = v := rfl
@[simp] theorem State.driveOe_stb (v : Bool) : (s.driveOe v).stb = s.stb := rfl
@[simp] theorem State.driveOe_pinAlo (v : Bool) : (s.driveOe v).pinAlo = s.pinAlo := rfl
@[simp] theorem State.driveOe_pinAmid (v : Bool) : (s.driveOe v).pinAmid = s.pinAmid := rfl
@[simp] theorem State.driveOe_pinAhi (v : Bool) : (s.driveOe v).pinAhi = s.pinAhi := rfl
@[simp] theorem State.driveOe_settled (v : Bool) : (s.driveOe v).settled = false := rfl
@[simp] theorem State.driveOe_stbStale (v : Bool) : (s.driveOe v).stbStale = s.stbStale := rfl
@[simp] theorem State.driveOe_txbuf (v : Bool) : (s.driveOe v).txbuf = s.txbuf := rfl
@[simp] theorem State.driveOe_busy (v : Bool) : (s.driveOe v).busy = s.busy := rfl
@[simp] theorem State.driveOe_pending (v : Bool) : (s.driveOe v).pending = s.pending := rfl
@[simp] theorem State.driveOe_cursor (v : Bool) : (s.driveOe v).cursor = s.cursor := rfl
@[simp] theorem State.driveOe_im (v : Bool) : (s.driveOe v).im = s.im := rfl
@[simp] theorem State.driveOe_serOn (v : Bool) : (s.driveOe v).serOn = s.serOn := rfl
@[simp] theorem State.driveOe_ready (v : Bool) : (s.driveOe v).ready = s.ready := rfl
@[simp] theorem State.driveOe_inflight (v : Bool) : (s.driveOe v).inflight = s.inflight := rfl
@[simp] theorem State.driveOe_tcPend (v : Bool) : (s.driveOe v).tcPend = s.tcPend := rfl
@[simp] theorem State.driveOe_line (v : Bool) : (s.driveOe v).line = s.line := rfl
@[simp] theorem State.driveOe_fault (v : Bool) : (s.driveOe v).fault = s.fault := rfl
@[simp] theorem State.driveOe_cs (v : Bool) : (s.driveOe v).cs = s.cs := rfl
@[simp] theorem State.driveOe_rom (v : Bool) : (s.driveOe v).rom = s.rom := rfl
@[simp] theorem State.driveOe_params (v : Bool) : (s.driveOe v).params = s.params := rfl
@[simp] theorem State.driveOe_turn (v : Bool) : (s.driveOe v).turn = s.turn := rfl
@[simp] theorem State.driveOe_clock (v : Bool) : (s.driveOe v).clock = s.clock := rfl
@[simp] theorem State.driveOe_txcWait (v : Bool) : (s.driveOe v).txcWait = s.txcWait := rfl
@[simp] theorem State.driveOe_seqWait (v : Bool) : (s.driveOe v).seqWait = s.seqWait := rfl
@[simp] theorem State.driveOe_draws (v : Bool) : (s.driveOe v).draws = s.draws := rfl

@[simp] theorem State.driveStb_upc (v : Bool) : (s.driveStb v).upc = s.upc := rfl
@[simp] theorem State.driveStb_addr (v : Bool) : (s.driveStb v).addr = s.addr := rfl
@[simp] theorem State.driveStb_row (v : Bool) : (s.driveStb v).row = s.row := rfl
@[simp] theorem State.driveStb_word (v : Bool) : (s.driveStb v).word = s.word := rfl
@[simp] theorem State.driveStb_tok (v : Bool) : (s.driveStb v).tok = s.tok := rfl
@[simp] theorem State.driveStb_cap (v : Bool) : (s.driveStb v).cap = s.cap := rfl
@[simp] theorem State.driveStb_ce (v : Bool) : (s.driveStb v).ce = s.ce := rfl
@[simp] theorem State.driveStb_oe (v : Bool) : (s.driveStb v).oe = s.oe := rfl
@[simp] theorem State.driveStb_stb (v : Bool) : (s.driveStb v).stb = v := rfl
@[simp] theorem State.driveStb_pinAlo (v : Bool) : (s.driveStb v).pinAlo = s.pinAlo := rfl
@[simp] theorem State.driveStb_pinAmid (v : Bool) : (s.driveStb v).pinAmid = s.pinAmid := rfl
@[simp] theorem State.driveStb_pinAhi (v : Bool) : (s.driveStb v).pinAhi = s.pinAhi := rfl
@[simp] theorem State.driveStb_settled (v : Bool) : (s.driveStb v).settled = false := rfl
@[simp] theorem State.driveStb_stbStale (v : Bool) : (s.driveStb v).stbStale = false := rfl
@[simp] theorem State.driveStb_txbuf (v : Bool) : (s.driveStb v).txbuf = s.txbuf := rfl
@[simp] theorem State.driveStb_busy (v : Bool) : (s.driveStb v).busy = s.busy := rfl
@[simp] theorem State.driveStb_pending (v : Bool) : (s.driveStb v).pending = s.pending := rfl
@[simp] theorem State.driveStb_cursor (v : Bool) : (s.driveStb v).cursor = s.cursor := rfl
@[simp] theorem State.driveStb_im (v : Bool) : (s.driveStb v).im = s.im := rfl
@[simp] theorem State.driveStb_serOn (v : Bool) : (s.driveStb v).serOn = s.serOn := rfl
@[simp] theorem State.driveStb_ready (v : Bool) : (s.driveStb v).ready = s.ready := rfl
@[simp] theorem State.driveStb_inflight (v : Bool) : (s.driveStb v).inflight = s.inflight := rfl
@[simp] theorem State.driveStb_tcPend (v : Bool) : (s.driveStb v).tcPend = s.tcPend := rfl
@[simp] theorem State.driveStb_line (v : Bool) : (s.driveStb v).line = s.line := rfl
@[simp] theorem State.driveStb_fault (v : Bool) : (s.driveStb v).fault = s.fault := rfl
@[simp] theorem State.driveStb_cs (v : Bool) : (s.driveStb v).cs = s.cs := rfl
@[simp] theorem State.driveStb_rom (v : Bool) : (s.driveStb v).rom = s.rom := rfl
@[simp] theorem State.driveStb_params (v : Bool) : (s.driveStb v).params = s.params := rfl
@[simp] theorem State.driveStb_turn (v : Bool) : (s.driveStb v).turn = s.turn := rfl
@[simp] theorem State.driveStb_clock (v : Bool) : (s.driveStb v).clock = s.clock := rfl
@[simp] theorem State.driveStb_txcWait (v : Bool) : (s.driveStb v).txcWait = s.txcWait := rfl
@[simp] theorem State.driveStb_seqWait (v : Bool) : (s.driveStb v).seqWait = s.seqWait := rfl
@[simp] theorem State.driveStb_draws (v : Bool) : (s.driveStb v).draws = s.draws := rfl

@[simp] theorem State.driveAlo_upc (v : BitVec 8) : (s.driveAlo v).upc = s.upc := rfl
@[simp] theorem State.driveAlo_addr (v : BitVec 8) : (s.driveAlo v).addr = s.addr := rfl
@[simp] theorem State.driveAlo_row (v : BitVec 8) : (s.driveAlo v).row = s.row := rfl
@[simp] theorem State.driveAlo_word (v : BitVec 8) : (s.driveAlo v).word = s.word := rfl
@[simp] theorem State.driveAlo_tok (v : BitVec 8) : (s.driveAlo v).tok = s.tok := rfl
@[simp] theorem State.driveAlo_cap (v : BitVec 8) : (s.driveAlo v).cap = s.cap := rfl
@[simp] theorem State.driveAlo_ce (v : BitVec 8) : (s.driveAlo v).ce = s.ce := rfl
@[simp] theorem State.driveAlo_oe (v : BitVec 8) : (s.driveAlo v).oe = s.oe := rfl
@[simp] theorem State.driveAlo_stb (v : BitVec 8) : (s.driveAlo v).stb = s.stb := rfl
@[simp] theorem State.driveAlo_pinAlo (v : BitVec 8) : (s.driveAlo v).pinAlo = v := rfl
@[simp] theorem State.driveAlo_pinAmid (v : BitVec 8) : (s.driveAlo v).pinAmid = s.pinAmid := rfl
@[simp] theorem State.driveAlo_pinAhi (v : BitVec 8) : (s.driveAlo v).pinAhi = s.pinAhi := rfl
@[simp] theorem State.driveAlo_settled (v : BitVec 8) : (s.driveAlo v).settled = false := rfl
@[simp] theorem State.driveAlo_stbStale (v : BitVec 8) : (s.driveAlo v).stbStale = true := rfl
@[simp] theorem State.driveAlo_txbuf (v : BitVec 8) : (s.driveAlo v).txbuf = s.txbuf := rfl
@[simp] theorem State.driveAlo_busy (v : BitVec 8) : (s.driveAlo v).busy = s.busy := rfl
@[simp] theorem State.driveAlo_pending (v : BitVec 8) : (s.driveAlo v).pending = s.pending := rfl
@[simp] theorem State.driveAlo_cursor (v : BitVec 8) : (s.driveAlo v).cursor = s.cursor := rfl
@[simp] theorem State.driveAlo_im (v : BitVec 8) : (s.driveAlo v).im = s.im := rfl
@[simp] theorem State.driveAlo_serOn (v : BitVec 8) : (s.driveAlo v).serOn = s.serOn := rfl
@[simp] theorem State.driveAlo_ready (v : BitVec 8) : (s.driveAlo v).ready = s.ready := rfl
@[simp] theorem State.driveAlo_inflight (v : BitVec 8) : (s.driveAlo v).inflight = s.inflight := rfl
@[simp] theorem State.driveAlo_tcPend (v : BitVec 8) : (s.driveAlo v).tcPend = s.tcPend := rfl
@[simp] theorem State.driveAlo_line (v : BitVec 8) : (s.driveAlo v).line = s.line := rfl
@[simp] theorem State.driveAlo_fault (v : BitVec 8) : (s.driveAlo v).fault = s.fault := rfl
@[simp] theorem State.driveAlo_cs (v : BitVec 8) : (s.driveAlo v).cs = s.cs := rfl
@[simp] theorem State.driveAlo_rom (v : BitVec 8) : (s.driveAlo v).rom = s.rom := rfl
@[simp] theorem State.driveAlo_params (v : BitVec 8) : (s.driveAlo v).params = s.params := rfl
@[simp] theorem State.driveAlo_turn (v : BitVec 8) : (s.driveAlo v).turn = s.turn := rfl
@[simp] theorem State.driveAlo_clock (v : BitVec 8) : (s.driveAlo v).clock = s.clock := rfl
@[simp] theorem State.driveAlo_txcWait (v : BitVec 8) : (s.driveAlo v).txcWait = s.txcWait := rfl
@[simp] theorem State.driveAlo_seqWait (v : BitVec 8) : (s.driveAlo v).seqWait = s.seqWait := rfl
@[simp] theorem State.driveAlo_draws (v : BitVec 8) : (s.driveAlo v).draws = s.draws := rfl

@[simp] theorem State.driveAmid_upc (v : BitVec 8) : (s.driveAmid v).upc = s.upc := rfl
@[simp] theorem State.driveAmid_addr (v : BitVec 8) : (s.driveAmid v).addr = s.addr := rfl
@[simp] theorem State.driveAmid_row (v : BitVec 8) : (s.driveAmid v).row = s.row := rfl
@[simp] theorem State.driveAmid_word (v : BitVec 8) : (s.driveAmid v).word = s.word := rfl
@[simp] theorem State.driveAmid_tok (v : BitVec 8) : (s.driveAmid v).tok = s.tok := rfl
@[simp] theorem State.driveAmid_cap (v : BitVec 8) : (s.driveAmid v).cap = s.cap := rfl
@[simp] theorem State.driveAmid_ce (v : BitVec 8) : (s.driveAmid v).ce = s.ce := rfl
@[simp] theorem State.driveAmid_oe (v : BitVec 8) : (s.driveAmid v).oe = s.oe := rfl
@[simp] theorem State.driveAmid_stb (v : BitVec 8) : (s.driveAmid v).stb = s.stb := rfl
@[simp] theorem State.driveAmid_pinAlo (v : BitVec 8) : (s.driveAmid v).pinAlo = s.pinAlo := rfl
@[simp] theorem State.driveAmid_pinAmid (v : BitVec 8) : (s.driveAmid v).pinAmid = v := rfl
@[simp] theorem State.driveAmid_pinAhi (v : BitVec 8) : (s.driveAmid v).pinAhi = s.pinAhi := rfl
@[simp] theorem State.driveAmid_settled (v : BitVec 8) : (s.driveAmid v).settled = false := rfl
@[simp] theorem State.driveAmid_stbStale (v : BitVec 8) : (s.driveAmid v).stbStale = true := rfl
@[simp] theorem State.driveAmid_txbuf (v : BitVec 8) : (s.driveAmid v).txbuf = s.txbuf := rfl
@[simp] theorem State.driveAmid_busy (v : BitVec 8) : (s.driveAmid v).busy = s.busy := rfl
@[simp] theorem State.driveAmid_pending (v : BitVec 8) : (s.driveAmid v).pending = s.pending := rfl
@[simp] theorem State.driveAmid_cursor (v : BitVec 8) : (s.driveAmid v).cursor = s.cursor := rfl
@[simp] theorem State.driveAmid_im (v : BitVec 8) : (s.driveAmid v).im = s.im := rfl
@[simp] theorem State.driveAmid_serOn (v : BitVec 8) : (s.driveAmid v).serOn = s.serOn := rfl
@[simp] theorem State.driveAmid_ready (v : BitVec 8) : (s.driveAmid v).ready = s.ready := rfl
@[simp] theorem State.driveAmid_inflight (v : BitVec 8) : (s.driveAmid v).inflight = s.inflight := rfl
@[simp] theorem State.driveAmid_tcPend (v : BitVec 8) : (s.driveAmid v).tcPend = s.tcPend := rfl
@[simp] theorem State.driveAmid_line (v : BitVec 8) : (s.driveAmid v).line = s.line := rfl
@[simp] theorem State.driveAmid_fault (v : BitVec 8) : (s.driveAmid v).fault = s.fault := rfl
@[simp] theorem State.driveAmid_cs (v : BitVec 8) : (s.driveAmid v).cs = s.cs := rfl
@[simp] theorem State.driveAmid_rom (v : BitVec 8) : (s.driveAmid v).rom = s.rom := rfl
@[simp] theorem State.driveAmid_params (v : BitVec 8) : (s.driveAmid v).params = s.params := rfl
@[simp] theorem State.driveAmid_turn (v : BitVec 8) : (s.driveAmid v).turn = s.turn := rfl
@[simp] theorem State.driveAmid_clock (v : BitVec 8) : (s.driveAmid v).clock = s.clock := rfl
@[simp] theorem State.driveAmid_txcWait (v : BitVec 8) : (s.driveAmid v).txcWait = s.txcWait := rfl
@[simp] theorem State.driveAmid_seqWait (v : BitVec 8) : (s.driveAmid v).seqWait = s.seqWait := rfl
@[simp] theorem State.driveAmid_draws (v : BitVec 8) : (s.driveAmid v).draws = s.draws := rfl

@[simp] theorem State.driveAhi_upc (v : BitVec 4) : (s.driveAhi v).upc = s.upc := rfl
@[simp] theorem State.driveAhi_addr (v : BitVec 4) : (s.driveAhi v).addr = s.addr := rfl
@[simp] theorem State.driveAhi_row (v : BitVec 4) : (s.driveAhi v).row = s.row := rfl
@[simp] theorem State.driveAhi_word (v : BitVec 4) : (s.driveAhi v).word = s.word := rfl
@[simp] theorem State.driveAhi_tok (v : BitVec 4) : (s.driveAhi v).tok = s.tok := rfl
@[simp] theorem State.driveAhi_cap (v : BitVec 4) : (s.driveAhi v).cap = s.cap := rfl
@[simp] theorem State.driveAhi_ce (v : BitVec 4) : (s.driveAhi v).ce = s.ce := rfl
@[simp] theorem State.driveAhi_oe (v : BitVec 4) : (s.driveAhi v).oe = s.oe := rfl
@[simp] theorem State.driveAhi_stb (v : BitVec 4) : (s.driveAhi v).stb = s.stb := rfl
@[simp] theorem State.driveAhi_pinAlo (v : BitVec 4) : (s.driveAhi v).pinAlo = s.pinAlo := rfl
@[simp] theorem State.driveAhi_pinAmid (v : BitVec 4) : (s.driveAhi v).pinAmid = s.pinAmid := rfl
@[simp] theorem State.driveAhi_pinAhi (v : BitVec 4) : (s.driveAhi v).pinAhi = v := rfl
@[simp] theorem State.driveAhi_settled (v : BitVec 4) : (s.driveAhi v).settled = false := rfl
@[simp] theorem State.driveAhi_stbStale (v : BitVec 4) : (s.driveAhi v).stbStale = true := rfl
@[simp] theorem State.driveAhi_txbuf (v : BitVec 4) : (s.driveAhi v).txbuf = s.txbuf := rfl
@[simp] theorem State.driveAhi_busy (v : BitVec 4) : (s.driveAhi v).busy = s.busy := rfl
@[simp] theorem State.driveAhi_pending (v : BitVec 4) : (s.driveAhi v).pending = s.pending := rfl
@[simp] theorem State.driveAhi_cursor (v : BitVec 4) : (s.driveAhi v).cursor = s.cursor := rfl
@[simp] theorem State.driveAhi_im (v : BitVec 4) : (s.driveAhi v).im = s.im := rfl
@[simp] theorem State.driveAhi_serOn (v : BitVec 4) : (s.driveAhi v).serOn = s.serOn := rfl
@[simp] theorem State.driveAhi_ready (v : BitVec 4) : (s.driveAhi v).ready = s.ready := rfl
@[simp] theorem State.driveAhi_inflight (v : BitVec 4) : (s.driveAhi v).inflight = s.inflight := rfl
@[simp] theorem State.driveAhi_tcPend (v : BitVec 4) : (s.driveAhi v).tcPend = s.tcPend := rfl
@[simp] theorem State.driveAhi_line (v : BitVec 4) : (s.driveAhi v).line = s.line := rfl
@[simp] theorem State.driveAhi_fault (v : BitVec 4) : (s.driveAhi v).fault = s.fault := rfl
@[simp] theorem State.driveAhi_cs (v : BitVec 4) : (s.driveAhi v).cs = s.cs := rfl
@[simp] theorem State.driveAhi_rom (v : BitVec 4) : (s.driveAhi v).rom = s.rom := rfl
@[simp] theorem State.driveAhi_params (v : BitVec 4) : (s.driveAhi v).params = s.params := rfl
@[simp] theorem State.driveAhi_turn (v : BitVec 4) : (s.driveAhi v).turn = s.turn := rfl
@[simp] theorem State.driveAhi_clock (v : BitVec 4) : (s.driveAhi v).clock = s.clock := rfl
@[simp] theorem State.driveAhi_txcWait (v : BitVec 4) : (s.driveAhi v).txcWait = s.txcWait := rfl
@[simp] theorem State.driveAhi_seqWait (v : BitVec 4) : (s.driveAhi v).seqWait = s.seqWait := rfl
@[simp] theorem State.driveAhi_draws (v : BitVec 4) : (s.driveAhi v).draws = s.draws := rfl

@[simp] theorem State.setSettled_upc (v : Bool) : (s.setSettled v).upc = s.upc := rfl
@[simp] theorem State.setSettled_addr (v : Bool) : (s.setSettled v).addr = s.addr := rfl
@[simp] theorem State.setSettled_row (v : Bool) : (s.setSettled v).row = s.row := rfl
@[simp] theorem State.setSettled_word (v : Bool) : (s.setSettled v).word = s.word := rfl
@[simp] theorem State.setSettled_tok (v : Bool) : (s.setSettled v).tok = s.tok := rfl
@[simp] theorem State.setSettled_cap (v : Bool) : (s.setSettled v).cap = s.cap := rfl
@[simp] theorem State.setSettled_ce (v : Bool) : (s.setSettled v).ce = s.ce := rfl
@[simp] theorem State.setSettled_oe (v : Bool) : (s.setSettled v).oe = s.oe := rfl
@[simp] theorem State.setSettled_stb (v : Bool) : (s.setSettled v).stb = s.stb := rfl
@[simp] theorem State.setSettled_pinAlo (v : Bool) : (s.setSettled v).pinAlo = s.pinAlo := rfl
@[simp] theorem State.setSettled_pinAmid (v : Bool) : (s.setSettled v).pinAmid = s.pinAmid := rfl
@[simp] theorem State.setSettled_pinAhi (v : Bool) : (s.setSettled v).pinAhi = s.pinAhi := rfl
@[simp] theorem State.setSettled_settled (v : Bool) : (s.setSettled v).settled = v := rfl
@[simp] theorem State.setSettled_stbStale (v : Bool) : (s.setSettled v).stbStale = s.stbStale := rfl
@[simp] theorem State.setSettled_txbuf (v : Bool) : (s.setSettled v).txbuf = s.txbuf := rfl
@[simp] theorem State.setSettled_busy (v : Bool) : (s.setSettled v).busy = s.busy := rfl
@[simp] theorem State.setSettled_pending (v : Bool) : (s.setSettled v).pending = s.pending := rfl
@[simp] theorem State.setSettled_cursor (v : Bool) : (s.setSettled v).cursor = s.cursor := rfl
@[simp] theorem State.setSettled_im (v : Bool) : (s.setSettled v).im = s.im := rfl
@[simp] theorem State.setSettled_serOn (v : Bool) : (s.setSettled v).serOn = s.serOn := rfl
@[simp] theorem State.setSettled_ready (v : Bool) : (s.setSettled v).ready = s.ready := rfl
@[simp] theorem State.setSettled_inflight (v : Bool) : (s.setSettled v).inflight = s.inflight := rfl
@[simp] theorem State.setSettled_tcPend (v : Bool) : (s.setSettled v).tcPend = s.tcPend := rfl
@[simp] theorem State.setSettled_line (v : Bool) : (s.setSettled v).line = s.line := rfl
@[simp] theorem State.setSettled_fault (v : Bool) : (s.setSettled v).fault = s.fault := rfl
@[simp] theorem State.setSettled_cs (v : Bool) : (s.setSettled v).cs = s.cs := rfl
@[simp] theorem State.setSettled_rom (v : Bool) : (s.setSettled v).rom = s.rom := rfl
@[simp] theorem State.setSettled_params (v : Bool) : (s.setSettled v).params = s.params := rfl
@[simp] theorem State.setSettled_turn (v : Bool) : (s.setSettled v).turn = s.turn := rfl
@[simp] theorem State.setSettled_clock (v : Bool) : (s.setSettled v).clock = s.clock := rfl
@[simp] theorem State.setSettled_txcWait (v : Bool) : (s.setSettled v).txcWait = s.txcWait := rfl
@[simp] theorem State.setSettled_seqWait (v : Bool) : (s.setSettled v).seqWait = s.seqWait := rfl
@[simp] theorem State.setSettled_draws (v : Bool) : (s.setSettled v).draws = s.draws := rfl

@[simp] theorem State.setIm_upc (v : Bool) : (s.setIm v).upc = s.upc := rfl
@[simp] theorem State.setIm_addr (v : Bool) : (s.setIm v).addr = s.addr := rfl
@[simp] theorem State.setIm_row (v : Bool) : (s.setIm v).row = s.row := rfl
@[simp] theorem State.setIm_word (v : Bool) : (s.setIm v).word = s.word := rfl
@[simp] theorem State.setIm_tok (v : Bool) : (s.setIm v).tok = s.tok := rfl
@[simp] theorem State.setIm_cap (v : Bool) : (s.setIm v).cap = s.cap := rfl
@[simp] theorem State.setIm_ce (v : Bool) : (s.setIm v).ce = s.ce := rfl
@[simp] theorem State.setIm_oe (v : Bool) : (s.setIm v).oe = s.oe := rfl
@[simp] theorem State.setIm_stb (v : Bool) : (s.setIm v).stb = s.stb := rfl
@[simp] theorem State.setIm_pinAlo (v : Bool) : (s.setIm v).pinAlo = s.pinAlo := rfl
@[simp] theorem State.setIm_pinAmid (v : Bool) : (s.setIm v).pinAmid = s.pinAmid := rfl
@[simp] theorem State.setIm_pinAhi (v : Bool) : (s.setIm v).pinAhi = s.pinAhi := rfl
@[simp] theorem State.setIm_settled (v : Bool) : (s.setIm v).settled = s.settled := rfl
@[simp] theorem State.setIm_stbStale (v : Bool) : (s.setIm v).stbStale = s.stbStale := rfl
@[simp] theorem State.setIm_txbuf (v : Bool) : (s.setIm v).txbuf = s.txbuf := rfl
@[simp] theorem State.setIm_busy (v : Bool) : (s.setIm v).busy = s.busy := rfl
@[simp] theorem State.setIm_pending (v : Bool) : (s.setIm v).pending = s.pending := rfl
@[simp] theorem State.setIm_cursor (v : Bool) : (s.setIm v).cursor = s.cursor := rfl
@[simp] theorem State.setIm_im (v : Bool) : (s.setIm v).im = v := rfl
@[simp] theorem State.setIm_serOn (v : Bool) : (s.setIm v).serOn = s.serOn := rfl
@[simp] theorem State.setIm_ready (v : Bool) : (s.setIm v).ready = s.ready := rfl
@[simp] theorem State.setIm_inflight (v : Bool) : (s.setIm v).inflight = s.inflight := rfl
@[simp] theorem State.setIm_tcPend (v : Bool) : (s.setIm v).tcPend = s.tcPend := rfl
@[simp] theorem State.setIm_line (v : Bool) : (s.setIm v).line = s.line := rfl
@[simp] theorem State.setIm_fault (v : Bool) : (s.setIm v).fault = s.fault := rfl
@[simp] theorem State.setIm_cs (v : Bool) : (s.setIm v).cs = s.cs := rfl
@[simp] theorem State.setIm_rom (v : Bool) : (s.setIm v).rom = s.rom := rfl
@[simp] theorem State.setIm_params (v : Bool) : (s.setIm v).params = s.params := rfl
@[simp] theorem State.setIm_turn (v : Bool) : (s.setIm v).turn = s.turn := rfl
@[simp] theorem State.setIm_clock (v : Bool) : (s.setIm v).clock = s.clock := rfl
@[simp] theorem State.setIm_txcWait (v : Bool) : (s.setIm v).txcWait = s.txcWait := rfl
@[simp] theorem State.setIm_seqWait (v : Bool) : (s.setIm v).seqWait = s.seqWait := rfl
@[simp] theorem State.setIm_draws (v : Bool) : (s.setIm v).draws = s.draws := rfl

@[simp] theorem State.turnSerOn_upc : s.turnSerOn.upc = s.upc := rfl
@[simp] theorem State.turnSerOn_addr : s.turnSerOn.addr = s.addr := rfl
@[simp] theorem State.turnSerOn_row : s.turnSerOn.row = s.row := rfl
@[simp] theorem State.turnSerOn_word : s.turnSerOn.word = s.word := rfl
@[simp] theorem State.turnSerOn_tok : s.turnSerOn.tok = s.tok := rfl
@[simp] theorem State.turnSerOn_cap : s.turnSerOn.cap = s.cap := rfl
@[simp] theorem State.turnSerOn_ce : s.turnSerOn.ce = s.ce := rfl
@[simp] theorem State.turnSerOn_oe : s.turnSerOn.oe = s.oe := rfl
@[simp] theorem State.turnSerOn_stb : s.turnSerOn.stb = s.stb := rfl
@[simp] theorem State.turnSerOn_pinAlo : s.turnSerOn.pinAlo = s.pinAlo := rfl
@[simp] theorem State.turnSerOn_pinAmid : s.turnSerOn.pinAmid = s.pinAmid := rfl
@[simp] theorem State.turnSerOn_pinAhi : s.turnSerOn.pinAhi = s.pinAhi := rfl
@[simp] theorem State.turnSerOn_settled : s.turnSerOn.settled = s.settled := rfl
@[simp] theorem State.turnSerOn_stbStale : s.turnSerOn.stbStale = s.stbStale := rfl
@[simp] theorem State.turnSerOn_txbuf : s.turnSerOn.txbuf = s.txbuf := rfl
@[simp] theorem State.turnSerOn_busy : s.turnSerOn.busy = s.busy := rfl
@[simp] theorem State.turnSerOn_pending : s.turnSerOn.pending = s.pending := rfl
@[simp] theorem State.turnSerOn_cursor : s.turnSerOn.cursor = s.cursor := rfl
@[simp] theorem State.turnSerOn_im : s.turnSerOn.im = s.im := rfl
@[simp] theorem State.turnSerOn_serOn : s.turnSerOn.serOn = true := rfl
@[simp] theorem State.turnSerOn_ready : s.turnSerOn.ready = s.ready := rfl
@[simp] theorem State.turnSerOn_inflight : s.turnSerOn.inflight = s.inflight := rfl
@[simp] theorem State.turnSerOn_tcPend : s.turnSerOn.tcPend = s.tcPend := rfl
@[simp] theorem State.turnSerOn_line : s.turnSerOn.line = s.line := rfl
@[simp] theorem State.turnSerOn_fault : s.turnSerOn.fault = s.fault := rfl
@[simp] theorem State.turnSerOn_cs : s.turnSerOn.cs = s.cs := rfl
@[simp] theorem State.turnSerOn_rom : s.turnSerOn.rom = s.rom := rfl
@[simp] theorem State.turnSerOn_params : s.turnSerOn.params = s.params := rfl
@[simp] theorem State.turnSerOn_turn : s.turnSerOn.turn = s.turn := rfl
@[simp] theorem State.turnSerOn_clock : s.turnSerOn.clock = s.clock := rfl
@[simp] theorem State.turnSerOn_txcWait : s.turnSerOn.txcWait = s.txcWait := rfl
@[simp] theorem State.turnSerOn_seqWait : s.turnSerOn.seqWait = s.seqWait := rfl
@[simp] theorem State.turnSerOn_draws : s.turnSerOn.draws = s.draws := rfl

@[simp] theorem State.fill_upc (m : List Byte) : (s.fill m).upc = s.upc := rfl
@[simp] theorem State.fill_addr (m : List Byte) : (s.fill m).addr = s.addr := rfl
@[simp] theorem State.fill_row (m : List Byte) : (s.fill m).row = s.row := rfl
@[simp] theorem State.fill_word (m : List Byte) : (s.fill m).word = s.word := rfl
@[simp] theorem State.fill_tok (m : List Byte) : (s.fill m).tok = s.tok := rfl
@[simp] theorem State.fill_cap (m : List Byte) : (s.fill m).cap = s.cap := rfl
@[simp] theorem State.fill_ce (m : List Byte) : (s.fill m).ce = s.ce := rfl
@[simp] theorem State.fill_oe (m : List Byte) : (s.fill m).oe = s.oe := rfl
@[simp] theorem State.fill_stb (m : List Byte) : (s.fill m).stb = s.stb := rfl
@[simp] theorem State.fill_pinAlo (m : List Byte) : (s.fill m).pinAlo = s.pinAlo := rfl
@[simp] theorem State.fill_pinAmid (m : List Byte) : (s.fill m).pinAmid = s.pinAmid := rfl
@[simp] theorem State.fill_pinAhi (m : List Byte) : (s.fill m).pinAhi = s.pinAhi := rfl
@[simp] theorem State.fill_settled (m : List Byte) : (s.fill m).settled = s.settled := rfl
@[simp] theorem State.fill_stbStale (m : List Byte) : (s.fill m).stbStale = s.stbStale := rfl
@[simp] theorem State.fill_txbuf (m : List Byte) : (s.fill m).txbuf = Memory.writeAll txDefault s.txbuf 0 m := rfl
@[simp] theorem State.fill_busy (m : List Byte) : (s.fill m).busy = true := rfl
@[simp] theorem State.fill_pending (m : List Byte) : (s.fill m).pending = m.length - 1 := rfl
@[simp] theorem State.fill_cursor (m : List Byte) : (s.fill m).cursor = 1 := rfl
@[simp] theorem State.fill_im (m : List Byte) : (s.fill m).im = s.im := rfl
@[simp] theorem State.fill_serOn (m : List Byte) : (s.fill m).serOn = s.serOn := rfl
@[simp] theorem State.fill_ready (m : List Byte) : (s.fill m).ready = s.ready := rfl
@[simp] theorem State.fill_inflight (m : List Byte) : (s.fill m).inflight = s.inflight := rfl
@[simp] theorem State.fill_tcPend (m : List Byte) : (s.fill m).tcPend = s.tcPend := rfl
@[simp] theorem State.fill_line (m : List Byte) : (s.fill m).line = s.line := rfl
@[simp] theorem State.fill_fault (m : List Byte) : (s.fill m).fault = s.fault := rfl
@[simp] theorem State.fill_cs (m : List Byte) : (s.fill m).cs = s.cs := rfl
@[simp] theorem State.fill_rom (m : List Byte) : (s.fill m).rom = s.rom := rfl
@[simp] theorem State.fill_params (m : List Byte) : (s.fill m).params = s.params := rfl
@[simp] theorem State.fill_turn (m : List Byte) : (s.fill m).turn = s.turn := rfl
@[simp] theorem State.fill_clock (m : List Byte) : (s.fill m).clock = s.clock := rfl
@[simp] theorem State.fill_txcWait (m : List Byte) : (s.fill m).txcWait = s.txcWait := rfl
@[simp] theorem State.fill_seqWait (m : List Byte) : (s.fill m).seqWait = s.seqWait := rfl
@[simp] theorem State.fill_draws (m : List Byte) : (s.fill m).draws = s.draws := rfl

@[simp] theorem State.push_upc (u : Byte) : (s.push u).upc = s.upc := rfl
@[simp] theorem State.push_addr (u : Byte) : (s.push u).addr = s.addr := rfl
@[simp] theorem State.push_row (u : Byte) : (s.push u).row = s.row := rfl
@[simp] theorem State.push_word (u : Byte) : (s.push u).word = s.word := rfl
@[simp] theorem State.push_tok (u : Byte) : (s.push u).tok = s.tok := rfl
@[simp] theorem State.push_cap (u : Byte) : (s.push u).cap = s.cap := rfl
@[simp] theorem State.push_ce (u : Byte) : (s.push u).ce = s.ce := rfl
@[simp] theorem State.push_oe (u : Byte) : (s.push u).oe = s.oe := rfl
@[simp] theorem State.push_stb (u : Byte) : (s.push u).stb = s.stb := rfl
@[simp] theorem State.push_pinAlo (u : Byte) : (s.push u).pinAlo = s.pinAlo := rfl
@[simp] theorem State.push_pinAmid (u : Byte) : (s.push u).pinAmid = s.pinAmid := rfl
@[simp] theorem State.push_pinAhi (u : Byte) : (s.push u).pinAhi = s.pinAhi := rfl
@[simp] theorem State.push_settled (u : Byte) : (s.push u).settled = s.settled := rfl
@[simp] theorem State.push_stbStale (u : Byte) : (s.push u).stbStale = s.stbStale := rfl
@[simp] theorem State.push_txbuf (u : Byte) : (s.push u).txbuf = s.txbuf := rfl
@[simp] theorem State.push_busy (u : Byte) : (s.push u).busy = s.busy := rfl
@[simp] theorem State.push_pending (u : Byte) : (s.push u).pending = s.pending := rfl
@[simp] theorem State.push_cursor (u : Byte) : (s.push u).cursor = s.cursor := rfl
@[simp] theorem State.push_im (u : Byte) : (s.push u).im = s.im := rfl
@[simp] theorem State.push_serOn (u : Byte) : (s.push u).serOn = s.serOn := rfl
@[simp] theorem State.push_ready (u : Byte) : (s.push u).ready = false := rfl
@[simp] theorem State.push_inflight (u : Byte) : (s.push u).inflight = some u := rfl
@[simp] theorem State.push_tcPend (u : Byte) : (s.push u).tcPend = s.tcPend := rfl
@[simp] theorem State.push_line (u : Byte) : (s.push u).line = s.line := rfl
@[simp] theorem State.push_fault (u : Byte) : (s.push u).fault = s.fault := rfl
@[simp] theorem State.push_cs (u : Byte) : (s.push u).cs = s.cs := rfl
@[simp] theorem State.push_rom (u : Byte) : (s.push u).rom = s.rom := rfl
@[simp] theorem State.push_params (u : Byte) : (s.push u).params = s.params := rfl
@[simp] theorem State.push_turn (u : Byte) : (s.push u).turn = s.turn := rfl
@[simp] theorem State.push_clock (u : Byte) : (s.push u).clock = s.clock := rfl
@[simp] theorem State.push_txcWait (u : Byte) : (s.push u).txcWait = s.txcWait := rfl
@[simp] theorem State.push_seqWait (u : Byte) : (s.push u).seqWait = s.seqWait := rfl
@[simp] theorem State.push_draws (u : Byte) : (s.push u).draws = s.draws := rfl

@[simp] theorem State.popUnit_upc : s.popUnit.upc = s.upc := rfl
@[simp] theorem State.popUnit_addr : s.popUnit.addr = s.addr := rfl
@[simp] theorem State.popUnit_row : s.popUnit.row = s.row := rfl
@[simp] theorem State.popUnit_word : s.popUnit.word = s.word := rfl
@[simp] theorem State.popUnit_tok : s.popUnit.tok = s.tok := rfl
@[simp] theorem State.popUnit_cap : s.popUnit.cap = s.cap := rfl
@[simp] theorem State.popUnit_ce : s.popUnit.ce = s.ce := rfl
@[simp] theorem State.popUnit_oe : s.popUnit.oe = s.oe := rfl
@[simp] theorem State.popUnit_stb : s.popUnit.stb = s.stb := rfl
@[simp] theorem State.popUnit_pinAlo : s.popUnit.pinAlo = s.pinAlo := rfl
@[simp] theorem State.popUnit_pinAmid : s.popUnit.pinAmid = s.pinAmid := rfl
@[simp] theorem State.popUnit_pinAhi : s.popUnit.pinAhi = s.pinAhi := rfl
@[simp] theorem State.popUnit_settled : s.popUnit.settled = s.settled := rfl
@[simp] theorem State.popUnit_stbStale : s.popUnit.stbStale = s.stbStale := rfl
@[simp] theorem State.popUnit_txbuf : s.popUnit.txbuf = s.txbuf := rfl
@[simp] theorem State.popUnit_busy : s.popUnit.busy = s.busy := rfl
@[simp] theorem State.popUnit_pending : s.popUnit.pending = s.pending - 1 := rfl
@[simp] theorem State.popUnit_cursor : s.popUnit.cursor = s.cursor + 1 := rfl
@[simp] theorem State.popUnit_im : s.popUnit.im = s.im := rfl
@[simp] theorem State.popUnit_serOn : s.popUnit.serOn = s.serOn := rfl
@[simp] theorem State.popUnit_ready : s.popUnit.ready = s.ready := rfl
@[simp] theorem State.popUnit_inflight : s.popUnit.inflight = s.inflight := rfl
@[simp] theorem State.popUnit_tcPend : s.popUnit.tcPend = s.tcPend := rfl
@[simp] theorem State.popUnit_line : s.popUnit.line = s.line := rfl
@[simp] theorem State.popUnit_fault : s.popUnit.fault = s.fault := rfl
@[simp] theorem State.popUnit_cs : s.popUnit.cs = s.cs := rfl
@[simp] theorem State.popUnit_rom : s.popUnit.rom = s.rom := rfl
@[simp] theorem State.popUnit_params : s.popUnit.params = s.params := rfl
@[simp] theorem State.popUnit_turn : s.popUnit.turn = s.turn := rfl
@[simp] theorem State.popUnit_clock : s.popUnit.clock = s.clock := rfl
@[simp] theorem State.popUnit_txcWait : s.popUnit.txcWait = s.txcWait := rfl
@[simp] theorem State.popUnit_seqWait : s.popUnit.seqWait = s.seqWait := rfl
@[simp] theorem State.popUnit_draws : s.popUnit.draws = s.draws := rfl

@[simp] theorem State.clearBusy_upc : s.clearBusy.upc = s.upc := rfl
@[simp] theorem State.clearBusy_addr : s.clearBusy.addr = s.addr := rfl
@[simp] theorem State.clearBusy_row : s.clearBusy.row = s.row := rfl
@[simp] theorem State.clearBusy_word : s.clearBusy.word = s.word := rfl
@[simp] theorem State.clearBusy_tok : s.clearBusy.tok = s.tok := rfl
@[simp] theorem State.clearBusy_cap : s.clearBusy.cap = s.cap := rfl
@[simp] theorem State.clearBusy_ce : s.clearBusy.ce = s.ce := rfl
@[simp] theorem State.clearBusy_oe : s.clearBusy.oe = s.oe := rfl
@[simp] theorem State.clearBusy_stb : s.clearBusy.stb = s.stb := rfl
@[simp] theorem State.clearBusy_pinAlo : s.clearBusy.pinAlo = s.pinAlo := rfl
@[simp] theorem State.clearBusy_pinAmid : s.clearBusy.pinAmid = s.pinAmid := rfl
@[simp] theorem State.clearBusy_pinAhi : s.clearBusy.pinAhi = s.pinAhi := rfl
@[simp] theorem State.clearBusy_settled : s.clearBusy.settled = s.settled := rfl
@[simp] theorem State.clearBusy_stbStale : s.clearBusy.stbStale = s.stbStale := rfl
@[simp] theorem State.clearBusy_txbuf : s.clearBusy.txbuf = s.txbuf := rfl
@[simp] theorem State.clearBusy_busy : s.clearBusy.busy = false := rfl
@[simp] theorem State.clearBusy_pending : s.clearBusy.pending = s.pending := rfl
@[simp] theorem State.clearBusy_cursor : s.clearBusy.cursor = s.cursor := rfl
@[simp] theorem State.clearBusy_im : s.clearBusy.im = s.im := rfl
@[simp] theorem State.clearBusy_serOn : s.clearBusy.serOn = s.serOn := rfl
@[simp] theorem State.clearBusy_ready : s.clearBusy.ready = s.ready := rfl
@[simp] theorem State.clearBusy_inflight : s.clearBusy.inflight = s.inflight := rfl
@[simp] theorem State.clearBusy_tcPend : s.clearBusy.tcPend = s.tcPend := rfl
@[simp] theorem State.clearBusy_line : s.clearBusy.line = s.line := rfl
@[simp] theorem State.clearBusy_fault : s.clearBusy.fault = s.fault := rfl
@[simp] theorem State.clearBusy_cs : s.clearBusy.cs = s.cs := rfl
@[simp] theorem State.clearBusy_rom : s.clearBusy.rom = s.rom := rfl
@[simp] theorem State.clearBusy_params : s.clearBusy.params = s.params := rfl
@[simp] theorem State.clearBusy_turn : s.clearBusy.turn = s.turn := rfl
@[simp] theorem State.clearBusy_clock : s.clearBusy.clock = s.clock := rfl
@[simp] theorem State.clearBusy_txcWait : s.clearBusy.txcWait = s.txcWait := rfl
@[simp] theorem State.clearBusy_seqWait : s.clearBusy.seqWait = s.seqWait := rfl
@[simp] theorem State.clearBusy_draws : s.clearBusy.draws = s.draws := rfl

@[simp] theorem State.shiftOut_upc (u : Byte) : (s.shiftOut u).upc = s.upc := rfl
@[simp] theorem State.shiftOut_addr (u : Byte) : (s.shiftOut u).addr = s.addr := rfl
@[simp] theorem State.shiftOut_row (u : Byte) : (s.shiftOut u).row = s.row := rfl
@[simp] theorem State.shiftOut_word (u : Byte) : (s.shiftOut u).word = s.word := rfl
@[simp] theorem State.shiftOut_tok (u : Byte) : (s.shiftOut u).tok = s.tok := rfl
@[simp] theorem State.shiftOut_cap (u : Byte) : (s.shiftOut u).cap = s.cap := rfl
@[simp] theorem State.shiftOut_ce (u : Byte) : (s.shiftOut u).ce = s.ce := rfl
@[simp] theorem State.shiftOut_oe (u : Byte) : (s.shiftOut u).oe = s.oe := rfl
@[simp] theorem State.shiftOut_stb (u : Byte) : (s.shiftOut u).stb = s.stb := rfl
@[simp] theorem State.shiftOut_pinAlo (u : Byte) : (s.shiftOut u).pinAlo = s.pinAlo := rfl
@[simp] theorem State.shiftOut_pinAmid (u : Byte) : (s.shiftOut u).pinAmid = s.pinAmid := rfl
@[simp] theorem State.shiftOut_pinAhi (u : Byte) : (s.shiftOut u).pinAhi = s.pinAhi := rfl
@[simp] theorem State.shiftOut_settled (u : Byte) : (s.shiftOut u).settled = s.settled := rfl
@[simp] theorem State.shiftOut_stbStale (u : Byte) : (s.shiftOut u).stbStale = s.stbStale := rfl
@[simp] theorem State.shiftOut_txbuf (u : Byte) : (s.shiftOut u).txbuf = s.txbuf := rfl
@[simp] theorem State.shiftOut_busy (u : Byte) : (s.shiftOut u).busy = s.busy := rfl
@[simp] theorem State.shiftOut_pending (u : Byte) : (s.shiftOut u).pending = s.pending := rfl
@[simp] theorem State.shiftOut_cursor (u : Byte) : (s.shiftOut u).cursor = s.cursor := rfl
@[simp] theorem State.shiftOut_im (u : Byte) : (s.shiftOut u).im = s.im := rfl
@[simp] theorem State.shiftOut_serOn (u : Byte) : (s.shiftOut u).serOn = s.serOn := rfl
@[simp] theorem State.shiftOut_ready (u : Byte) : (s.shiftOut u).ready = true := rfl
@[simp] theorem State.shiftOut_inflight (u : Byte) : (s.shiftOut u).inflight = none := rfl
@[simp] theorem State.shiftOut_tcPend (u : Byte) : (s.shiftOut u).tcPend = true := rfl
@[simp] theorem State.shiftOut_line (u : Byte) : (s.shiftOut u).line = s.line ++ [u] := rfl
@[simp] theorem State.shiftOut_fault (u : Byte) : (s.shiftOut u).fault = s.fault := rfl
@[simp] theorem State.shiftOut_cs (u : Byte) : (s.shiftOut u).cs = s.cs := rfl
@[simp] theorem State.shiftOut_rom (u : Byte) : (s.shiftOut u).rom = s.rom := rfl
@[simp] theorem State.shiftOut_params (u : Byte) : (s.shiftOut u).params = s.params := rfl
@[simp] theorem State.shiftOut_turn (u : Byte) : (s.shiftOut u).turn = s.turn := rfl
@[simp] theorem State.shiftOut_clock (u : Byte) : (s.shiftOut u).clock = s.clock := rfl
@[simp] theorem State.shiftOut_txcWait (u : Byte) : (s.shiftOut u).txcWait = s.txcWait := rfl
@[simp] theorem State.shiftOut_seqWait (u : Byte) : (s.shiftOut u).seqWait = s.seqWait := rfl
@[simp] theorem State.shiftOut_draws (u : Byte) : (s.shiftOut u).draws = s.draws := rfl

@[simp] theorem State.raiseReady_upc : s.raiseReady.upc = s.upc := rfl
@[simp] theorem State.raiseReady_addr : s.raiseReady.addr = s.addr := rfl
@[simp] theorem State.raiseReady_row : s.raiseReady.row = s.row := rfl
@[simp] theorem State.raiseReady_word : s.raiseReady.word = s.word := rfl
@[simp] theorem State.raiseReady_tok : s.raiseReady.tok = s.tok := rfl
@[simp] theorem State.raiseReady_cap : s.raiseReady.cap = s.cap := rfl
@[simp] theorem State.raiseReady_ce : s.raiseReady.ce = s.ce := rfl
@[simp] theorem State.raiseReady_oe : s.raiseReady.oe = s.oe := rfl
@[simp] theorem State.raiseReady_stb : s.raiseReady.stb = s.stb := rfl
@[simp] theorem State.raiseReady_pinAlo : s.raiseReady.pinAlo = s.pinAlo := rfl
@[simp] theorem State.raiseReady_pinAmid : s.raiseReady.pinAmid = s.pinAmid := rfl
@[simp] theorem State.raiseReady_pinAhi : s.raiseReady.pinAhi = s.pinAhi := rfl
@[simp] theorem State.raiseReady_settled : s.raiseReady.settled = s.settled := rfl
@[simp] theorem State.raiseReady_stbStale : s.raiseReady.stbStale = s.stbStale := rfl
@[simp] theorem State.raiseReady_txbuf : s.raiseReady.txbuf = s.txbuf := rfl
@[simp] theorem State.raiseReady_busy : s.raiseReady.busy = s.busy := rfl
@[simp] theorem State.raiseReady_pending : s.raiseReady.pending = s.pending := rfl
@[simp] theorem State.raiseReady_cursor : s.raiseReady.cursor = s.cursor := rfl
@[simp] theorem State.raiseReady_im : s.raiseReady.im = s.im := rfl
@[simp] theorem State.raiseReady_serOn : s.raiseReady.serOn = s.serOn := rfl
@[simp] theorem State.raiseReady_ready : s.raiseReady.ready = true := rfl
@[simp] theorem State.raiseReady_inflight : s.raiseReady.inflight = s.inflight := rfl
@[simp] theorem State.raiseReady_tcPend : s.raiseReady.tcPend = s.tcPend := rfl
@[simp] theorem State.raiseReady_line : s.raiseReady.line = s.line := rfl
@[simp] theorem State.raiseReady_fault : s.raiseReady.fault = s.fault := rfl
@[simp] theorem State.raiseReady_cs : s.raiseReady.cs = s.cs := rfl
@[simp] theorem State.raiseReady_rom : s.raiseReady.rom = s.rom := rfl
@[simp] theorem State.raiseReady_params : s.raiseReady.params = s.params := rfl
@[simp] theorem State.raiseReady_turn : s.raiseReady.turn = s.turn := rfl
@[simp] theorem State.raiseReady_clock : s.raiseReady.clock = s.clock := rfl
@[simp] theorem State.raiseReady_txcWait : s.raiseReady.txcWait = s.txcWait := rfl
@[simp] theorem State.raiseReady_seqWait : s.raiseReady.seqWait = s.seqWait := rfl
@[simp] theorem State.raiseReady_draws : s.raiseReady.draws = s.draws := rfl

@[simp] theorem State.countDraw_upc (d : Bool) : (s.countDraw d).upc = s.upc := rfl
@[simp] theorem State.countDraw_addr (d : Bool) : (s.countDraw d).addr = s.addr := rfl
@[simp] theorem State.countDraw_row (d : Bool) : (s.countDraw d).row = s.row := rfl
@[simp] theorem State.countDraw_word (d : Bool) : (s.countDraw d).word = s.word := rfl
@[simp] theorem State.countDraw_tok (d : Bool) : (s.countDraw d).tok = s.tok := rfl
@[simp] theorem State.countDraw_cap (d : Bool) : (s.countDraw d).cap = s.cap := rfl
@[simp] theorem State.countDraw_ce (d : Bool) : (s.countDraw d).ce = s.ce := rfl
@[simp] theorem State.countDraw_oe (d : Bool) : (s.countDraw d).oe = s.oe := rfl
@[simp] theorem State.countDraw_stb (d : Bool) : (s.countDraw d).stb = s.stb := rfl
@[simp] theorem State.countDraw_pinAlo (d : Bool) : (s.countDraw d).pinAlo = s.pinAlo := rfl
@[simp] theorem State.countDraw_pinAmid (d : Bool) : (s.countDraw d).pinAmid = s.pinAmid := rfl
@[simp] theorem State.countDraw_pinAhi (d : Bool) : (s.countDraw d).pinAhi = s.pinAhi := rfl
@[simp] theorem State.countDraw_settled (d : Bool) : (s.countDraw d).settled = s.settled := rfl
@[simp] theorem State.countDraw_stbStale (d : Bool) : (s.countDraw d).stbStale = s.stbStale := rfl
@[simp] theorem State.countDraw_txbuf (d : Bool) : (s.countDraw d).txbuf = s.txbuf := rfl
@[simp] theorem State.countDraw_busy (d : Bool) : (s.countDraw d).busy = s.busy := rfl
@[simp] theorem State.countDraw_pending (d : Bool) : (s.countDraw d).pending = s.pending := rfl
@[simp] theorem State.countDraw_cursor (d : Bool) : (s.countDraw d).cursor = s.cursor := rfl
@[simp] theorem State.countDraw_im (d : Bool) : (s.countDraw d).im = s.im := rfl
@[simp] theorem State.countDraw_serOn (d : Bool) : (s.countDraw d).serOn = s.serOn := rfl
@[simp] theorem State.countDraw_ready (d : Bool) : (s.countDraw d).ready = s.ready := rfl
@[simp] theorem State.countDraw_inflight (d : Bool) : (s.countDraw d).inflight = s.inflight := rfl
@[simp] theorem State.countDraw_tcPend (d : Bool) : (s.countDraw d).tcPend = s.tcPend := rfl
@[simp] theorem State.countDraw_line (d : Bool) : (s.countDraw d).line = s.line := rfl
@[simp] theorem State.countDraw_fault (d : Bool) : (s.countDraw d).fault = s.fault := rfl
@[simp] theorem State.countDraw_cs (d : Bool) : (s.countDraw d).cs = s.cs := rfl
@[simp] theorem State.countDraw_rom (d : Bool) : (s.countDraw d).rom = s.rom := rfl
@[simp] theorem State.countDraw_params (d : Bool) : (s.countDraw d).params = s.params := rfl
@[simp] theorem State.countDraw_turn (d : Bool) : (s.countDraw d).turn = s.turn := rfl
@[simp] theorem State.countDraw_clock (d : Bool) : (s.countDraw d).clock = s.clock := rfl
@[simp] theorem State.countDraw_txcWait (d : Bool) : (s.countDraw d).txcWait = s.txcWait := rfl
@[simp] theorem State.countDraw_seqWait (d : Bool) : (s.countDraw d).seqWait = s.seqWait := rfl
@[simp] theorem State.countDraw_draws (d : Bool) : (s.countDraw d).draws = if d then s.draws + 1 else s.draws := rfl

@[simp] theorem State.markFault_upc (r : Fault) : (s.markFault r).upc = s.upc := rfl
@[simp] theorem State.markFault_addr (r : Fault) : (s.markFault r).addr = s.addr := rfl
@[simp] theorem State.markFault_row (r : Fault) : (s.markFault r).row = s.row := rfl
@[simp] theorem State.markFault_word (r : Fault) : (s.markFault r).word = s.word := rfl
@[simp] theorem State.markFault_tok (r : Fault) : (s.markFault r).tok = s.tok := rfl
@[simp] theorem State.markFault_cap (r : Fault) : (s.markFault r).cap = s.cap := rfl
@[simp] theorem State.markFault_ce (r : Fault) : (s.markFault r).ce = s.ce := rfl
@[simp] theorem State.markFault_oe (r : Fault) : (s.markFault r).oe = s.oe := rfl
@[simp] theorem State.markFault_stb (r : Fault) : (s.markFault r).stb = s.stb := rfl
@[simp] theorem State.markFault_pinAlo (r : Fault) : (s.markFault r).pinAlo = s.pinAlo := rfl
@[simp] theorem State.markFault_pinAmid (r : Fault) : (s.markFault r).pinAmid = s.pinAmid := rfl
@[simp] theorem State.markFault_pinAhi (r : Fault) : (s.markFault r).pinAhi = s.pinAhi := rfl
@[simp] theorem State.markFault_settled (r : Fault) : (s.markFault r).settled = s.settled := rfl
@[simp] theorem State.markFault_stbStale (r : Fault) : (s.markFault r).stbStale = s.stbStale := rfl
@[simp] theorem State.markFault_txbuf (r : Fault) : (s.markFault r).txbuf = s.txbuf := rfl
@[simp] theorem State.markFault_busy (r : Fault) : (s.markFault r).busy = s.busy := rfl
@[simp] theorem State.markFault_pending (r : Fault) : (s.markFault r).pending = s.pending := rfl
@[simp] theorem State.markFault_cursor (r : Fault) : (s.markFault r).cursor = s.cursor := rfl
@[simp] theorem State.markFault_im (r : Fault) : (s.markFault r).im = s.im := rfl
@[simp] theorem State.markFault_serOn (r : Fault) : (s.markFault r).serOn = s.serOn := rfl
@[simp] theorem State.markFault_ready (r : Fault) : (s.markFault r).ready = s.ready := rfl
@[simp] theorem State.markFault_inflight (r : Fault) : (s.markFault r).inflight = s.inflight := rfl
@[simp] theorem State.markFault_tcPend (r : Fault) : (s.markFault r).tcPend = s.tcPend := rfl
@[simp] theorem State.markFault_line (r : Fault) : (s.markFault r).line = s.line := rfl
@[simp] theorem State.markFault_fault (r : Fault) : (s.markFault r).fault = some r := rfl
@[simp] theorem State.markFault_cs (r : Fault) : (s.markFault r).cs = s.cs := rfl
@[simp] theorem State.markFault_rom (r : Fault) : (s.markFault r).rom = s.rom := rfl
@[simp] theorem State.markFault_params (r : Fault) : (s.markFault r).params = s.params := rfl
@[simp] theorem State.markFault_turn (r : Fault) : (s.markFault r).turn = s.turn := rfl
@[simp] theorem State.markFault_clock (r : Fault) : (s.markFault r).clock = s.clock := rfl
@[simp] theorem State.markFault_txcWait (r : Fault) : (s.markFault r).txcWait = s.txcWait := rfl
@[simp] theorem State.markFault_seqWait (r : Fault) : (s.markFault r).seqWait = s.seqWait := rfl
@[simp] theorem State.markFault_draws (r : Fault) : (s.markFault r).draws = s.draws := rfl

@[simp] theorem State.enterHandler_upc : s.enterHandler.upc = s.upc := rfl
@[simp] theorem State.enterHandler_addr : s.enterHandler.addr = s.addr := rfl
@[simp] theorem State.enterHandler_row : s.enterHandler.row = s.row := rfl
@[simp] theorem State.enterHandler_word : s.enterHandler.word = s.word := rfl
@[simp] theorem State.enterHandler_tok : s.enterHandler.tok = s.tok := rfl
@[simp] theorem State.enterHandler_cap : s.enterHandler.cap = s.cap := rfl
@[simp] theorem State.enterHandler_ce : s.enterHandler.ce = s.ce := rfl
@[simp] theorem State.enterHandler_oe : s.enterHandler.oe = s.oe := rfl
@[simp] theorem State.enterHandler_stb : s.enterHandler.stb = s.stb := rfl
@[simp] theorem State.enterHandler_pinAlo : s.enterHandler.pinAlo = s.pinAlo := rfl
@[simp] theorem State.enterHandler_pinAmid : s.enterHandler.pinAmid = s.pinAmid := rfl
@[simp] theorem State.enterHandler_pinAhi : s.enterHandler.pinAhi = s.pinAhi := rfl
@[simp] theorem State.enterHandler_settled : s.enterHandler.settled = s.settled := rfl
@[simp] theorem State.enterHandler_stbStale : s.enterHandler.stbStale = s.stbStale := rfl
@[simp] theorem State.enterHandler_txbuf : s.enterHandler.txbuf = s.txbuf := rfl
@[simp] theorem State.enterHandler_busy : s.enterHandler.busy = s.busy := rfl
@[simp] theorem State.enterHandler_pending : s.enterHandler.pending = s.pending := rfl
@[simp] theorem State.enterHandler_cursor : s.enterHandler.cursor = s.cursor := rfl
@[simp] theorem State.enterHandler_im : s.enterHandler.im = s.im := rfl
@[simp] theorem State.enterHandler_serOn : s.enterHandler.serOn = s.serOn := rfl
@[simp] theorem State.enterHandler_ready : s.enterHandler.ready = s.ready := rfl
@[simp] theorem State.enterHandler_inflight : s.enterHandler.inflight = s.inflight := rfl
@[simp] theorem State.enterHandler_tcPend : s.enterHandler.tcPend = false := rfl
@[simp] theorem State.enterHandler_line : s.enterHandler.line = s.line := rfl
@[simp] theorem State.enterHandler_fault : s.enterHandler.fault = s.fault := rfl
@[simp] theorem State.enterHandler_cs : s.enterHandler.cs = s.cs := rfl
@[simp] theorem State.enterHandler_rom : s.enterHandler.rom = s.rom := rfl
@[simp] theorem State.enterHandler_params : s.enterHandler.params = s.params := rfl
@[simp] theorem State.enterHandler_turn : s.enterHandler.turn = s.turn := rfl
@[simp] theorem State.enterHandler_clock : s.enterHandler.clock = s.clock := rfl
@[simp] theorem State.enterHandler_txcWait : s.enterHandler.txcWait = s.txcWait := rfl
@[simp] theorem State.enterHandler_seqWait : s.enterHandler.seqWait = s.seqWait := rfl
@[simp] theorem State.enterHandler_draws : s.enterHandler.draws = s.draws := rfl

@[simp] theorem State.passTurn_upc (m : Agent) : (s.passTurn m).upc = s.upc := rfl
@[simp] theorem State.passTurn_addr (m : Agent) : (s.passTurn m).addr = s.addr := rfl
@[simp] theorem State.passTurn_row (m : Agent) : (s.passTurn m).row = s.row := rfl
@[simp] theorem State.passTurn_word (m : Agent) : (s.passTurn m).word = s.word := rfl
@[simp] theorem State.passTurn_tok (m : Agent) : (s.passTurn m).tok = s.tok := rfl
@[simp] theorem State.passTurn_cap (m : Agent) : (s.passTurn m).cap = s.cap := rfl
@[simp] theorem State.passTurn_ce (m : Agent) : (s.passTurn m).ce = s.ce := rfl
@[simp] theorem State.passTurn_oe (m : Agent) : (s.passTurn m).oe = s.oe := rfl
@[simp] theorem State.passTurn_stb (m : Agent) : (s.passTurn m).stb = s.stb := rfl
@[simp] theorem State.passTurn_pinAlo (m : Agent) : (s.passTurn m).pinAlo = s.pinAlo := rfl
@[simp] theorem State.passTurn_pinAmid (m : Agent) : (s.passTurn m).pinAmid = s.pinAmid := rfl
@[simp] theorem State.passTurn_pinAhi (m : Agent) : (s.passTurn m).pinAhi = s.pinAhi := rfl
@[simp] theorem State.passTurn_settled (m : Agent) : (s.passTurn m).settled = s.settled := rfl
@[simp] theorem State.passTurn_stbStale (m : Agent) : (s.passTurn m).stbStale = s.stbStale := rfl
@[simp] theorem State.passTurn_txbuf (m : Agent) : (s.passTurn m).txbuf = s.txbuf := rfl
@[simp] theorem State.passTurn_busy (m : Agent) : (s.passTurn m).busy = s.busy := rfl
@[simp] theorem State.passTurn_pending (m : Agent) : (s.passTurn m).pending = s.pending := rfl
@[simp] theorem State.passTurn_cursor (m : Agent) : (s.passTurn m).cursor = s.cursor := rfl
@[simp] theorem State.passTurn_im (m : Agent) : (s.passTurn m).im = s.im := rfl
@[simp] theorem State.passTurn_serOn (m : Agent) : (s.passTurn m).serOn = s.serOn := rfl
@[simp] theorem State.passTurn_ready (m : Agent) : (s.passTurn m).ready = s.ready := rfl
@[simp] theorem State.passTurn_inflight (m : Agent) : (s.passTurn m).inflight = s.inflight := rfl
@[simp] theorem State.passTurn_tcPend (m : Agent) : (s.passTurn m).tcPend = s.tcPend := rfl
@[simp] theorem State.passTurn_line (m : Agent) : (s.passTurn m).line = s.line := rfl
@[simp] theorem State.passTurn_fault (m : Agent) : (s.passTurn m).fault = s.fault := rfl
@[simp] theorem State.passTurn_cs (m : Agent) : (s.passTurn m).cs = s.cs := rfl
@[simp] theorem State.passTurn_rom (m : Agent) : (s.passTurn m).rom = s.rom := rfl
@[simp] theorem State.passTurn_params (m : Agent) : (s.passTurn m).params = s.params := rfl
@[simp] theorem State.passTurn_turn (m : Agent) : (s.passTurn m).turn = Config.schedule s.clock := rfl
@[simp] theorem State.passTurn_clock (m : Agent) : (s.passTurn m).clock = s.clock + 1 := rfl
@[simp] theorem State.passTurn_txcWait (m : Agent) : (s.passTurn m).txcWait =
    if s.txcEnabled = true ∧ m ≠ .txc then s.txcWait - 1 else Config.txcPatience s.clock := rfl
@[simp] theorem State.passTurn_seqWait (m : Agent) : (s.passTurn m).seqWait =
    if m = .seq then Config.seqPatience s.clock else s.seqWait - 1 := rfl
@[simp] theorem State.passTurn_draws (m : Agent) : (s.passTurn m).draws = s.draws := rfl

@[simp] theorem State.withSchedule_upc (t : State) : (s.withSchedule t).upc = s.upc := rfl
@[simp] theorem State.withSchedule_addr (t : State) : (s.withSchedule t).addr = s.addr := rfl
@[simp] theorem State.withSchedule_row (t : State) : (s.withSchedule t).row = s.row := rfl
@[simp] theorem State.withSchedule_word (t : State) : (s.withSchedule t).word = s.word := rfl
@[simp] theorem State.withSchedule_tok (t : State) : (s.withSchedule t).tok = s.tok := rfl
@[simp] theorem State.withSchedule_cap (t : State) : (s.withSchedule t).cap = s.cap := rfl
@[simp] theorem State.withSchedule_ce (t : State) : (s.withSchedule t).ce = s.ce := rfl
@[simp] theorem State.withSchedule_oe (t : State) : (s.withSchedule t).oe = s.oe := rfl
@[simp] theorem State.withSchedule_stb (t : State) : (s.withSchedule t).stb = s.stb := rfl
@[simp] theorem State.withSchedule_pinAlo (t : State) : (s.withSchedule t).pinAlo = s.pinAlo := rfl
@[simp] theorem State.withSchedule_pinAmid (t : State) : (s.withSchedule t).pinAmid = s.pinAmid := rfl
@[simp] theorem State.withSchedule_pinAhi (t : State) : (s.withSchedule t).pinAhi = s.pinAhi := rfl
@[simp] theorem State.withSchedule_settled (t : State) : (s.withSchedule t).settled = s.settled := rfl
@[simp] theorem State.withSchedule_stbStale (t : State) : (s.withSchedule t).stbStale = s.stbStale := rfl
@[simp] theorem State.withSchedule_txbuf (t : State) : (s.withSchedule t).txbuf = s.txbuf := rfl
@[simp] theorem State.withSchedule_busy (t : State) : (s.withSchedule t).busy = s.busy := rfl
@[simp] theorem State.withSchedule_pending (t : State) : (s.withSchedule t).pending = s.pending := rfl
@[simp] theorem State.withSchedule_cursor (t : State) : (s.withSchedule t).cursor = s.cursor := rfl
@[simp] theorem State.withSchedule_im (t : State) : (s.withSchedule t).im = s.im := rfl
@[simp] theorem State.withSchedule_serOn (t : State) : (s.withSchedule t).serOn = s.serOn := rfl
@[simp] theorem State.withSchedule_ready (t : State) : (s.withSchedule t).ready = s.ready := rfl
@[simp] theorem State.withSchedule_inflight (t : State) : (s.withSchedule t).inflight = s.inflight := rfl
@[simp] theorem State.withSchedule_tcPend (t : State) : (s.withSchedule t).tcPend = s.tcPend := rfl
@[simp] theorem State.withSchedule_line (t : State) : (s.withSchedule t).line = s.line := rfl
@[simp] theorem State.withSchedule_fault (t : State) : (s.withSchedule t).fault = s.fault := rfl
@[simp] theorem State.withSchedule_cs (t : State) : (s.withSchedule t).cs = s.cs := rfl
@[simp] theorem State.withSchedule_rom (t : State) : (s.withSchedule t).rom = s.rom := rfl
@[simp] theorem State.withSchedule_params (t : State) : (s.withSchedule t).params = s.params := rfl
@[simp] theorem State.withSchedule_turn (t : State) : (s.withSchedule t).turn = t.turn := rfl
@[simp] theorem State.withSchedule_clock (t : State) : (s.withSchedule t).clock = t.clock := rfl
@[simp] theorem State.withSchedule_txcWait (t : State) : (s.withSchedule t).txcWait = t.txcWait := rfl
@[simp] theorem State.withSchedule_seqWait (t : State) : (s.withSchedule t).seqWait = t.seqWait := rfl
@[simp] theorem State.withSchedule_draws (t : State) : (s.withSchedule t).draws = s.draws := rfl

@[simp] theorem State.loadCs_upc (u : Index) (w : Word) : (s.loadCs u w).upc = s.upc := rfl
@[simp] theorem State.loadCs_addr (u : Index) (w : Word) : (s.loadCs u w).addr = s.addr := rfl
@[simp] theorem State.loadCs_row (u : Index) (w : Word) : (s.loadCs u w).row = s.row := rfl
@[simp] theorem State.loadCs_word (u : Index) (w : Word) : (s.loadCs u w).word = s.word := rfl
@[simp] theorem State.loadCs_tok (u : Index) (w : Word) : (s.loadCs u w).tok = s.tok := rfl
@[simp] theorem State.loadCs_cap (u : Index) (w : Word) : (s.loadCs u w).cap = s.cap := rfl
@[simp] theorem State.loadCs_ce (u : Index) (w : Word) : (s.loadCs u w).ce = s.ce := rfl
@[simp] theorem State.loadCs_oe (u : Index) (w : Word) : (s.loadCs u w).oe = s.oe := rfl
@[simp] theorem State.loadCs_stb (u : Index) (w : Word) : (s.loadCs u w).stb = s.stb := rfl
@[simp] theorem State.loadCs_pinAlo (u : Index) (w : Word) : (s.loadCs u w).pinAlo = s.pinAlo := rfl
@[simp] theorem State.loadCs_pinAmid (u : Index) (w : Word) : (s.loadCs u w).pinAmid = s.pinAmid := rfl
@[simp] theorem State.loadCs_pinAhi (u : Index) (w : Word) : (s.loadCs u w).pinAhi = s.pinAhi := rfl
@[simp] theorem State.loadCs_settled (u : Index) (w : Word) : (s.loadCs u w).settled = s.settled := rfl
@[simp] theorem State.loadCs_stbStale (u : Index) (w : Word) : (s.loadCs u w).stbStale = s.stbStale := rfl
@[simp] theorem State.loadCs_txbuf (u : Index) (w : Word) : (s.loadCs u w).txbuf = s.txbuf := rfl
@[simp] theorem State.loadCs_busy (u : Index) (w : Word) : (s.loadCs u w).busy = s.busy := rfl
@[simp] theorem State.loadCs_pending (u : Index) (w : Word) : (s.loadCs u w).pending = s.pending := rfl
@[simp] theorem State.loadCs_cursor (u : Index) (w : Word) : (s.loadCs u w).cursor = s.cursor := rfl
@[simp] theorem State.loadCs_im (u : Index) (w : Word) : (s.loadCs u w).im = s.im := rfl
@[simp] theorem State.loadCs_serOn (u : Index) (w : Word) : (s.loadCs u w).serOn = s.serOn := rfl
@[simp] theorem State.loadCs_ready (u : Index) (w : Word) : (s.loadCs u w).ready = s.ready := rfl
@[simp] theorem State.loadCs_inflight (u : Index) (w : Word) : (s.loadCs u w).inflight = s.inflight := rfl
@[simp] theorem State.loadCs_tcPend (u : Index) (w : Word) : (s.loadCs u w).tcPend = s.tcPend := rfl
@[simp] theorem State.loadCs_line (u : Index) (w : Word) : (s.loadCs u w).line = s.line := rfl
@[simp] theorem State.loadCs_fault (u : Index) (w : Word) : (s.loadCs u w).fault = s.fault := rfl
@[simp] theorem State.loadCs_cs (u : Index) (w : Word) : (s.loadCs u w).cs =
    Memory.writeAll programByte s.cs (2 * u.toNat) [opField w, immField w] := rfl
@[simp] theorem State.loadCs_rom (u : Index) (w : Word) : (s.loadCs u w).rom = s.rom := rfl
@[simp] theorem State.loadCs_params (u : Index) (w : Word) : (s.loadCs u w).params = s.params := rfl
@[simp] theorem State.loadCs_turn (u : Index) (w : Word) : (s.loadCs u w).turn = s.turn := rfl
@[simp] theorem State.loadCs_clock (u : Index) (w : Word) : (s.loadCs u w).clock = s.clock := rfl
@[simp] theorem State.loadCs_txcWait (u : Index) (w : Word) : (s.loadCs u w).txcWait = s.txcWait := rfl
@[simp] theorem State.loadCs_seqWait (u : Index) (w : Word) : (s.loadCs u w).seqWait = s.seqWait := rfl
@[simp] theorem State.loadCs_draws (u : Index) (w : Word) : (s.loadCs u w).draws = s.draws := rfl

/-- Leaving the handler restores nothing (60_exceptions.md R289). -/
@[simp] theorem State.leaveHandler_eq : s.leaveHandler = s := rfl

end Sys2Proof.Machine
end

