-- ==== Sys2Proof/Laws/Memory.lean ====
section
/-!
SUPPORT. The laws of a byte space: a read after a write, and that every operation keeps the canonical form.
-/
namespace Sys2Proof.Machine

variable {dflt : Nat → Byte} {size lo : Nat} {m : Memory} {a k : Nat} {b : Byte}

@[simp] theorem Memory.read_nil (dflt : Nat → Byte) (k : Nat) : Memory.read dflt [] k = dflt k := rfl

theorem Memory.read_insert (dflt : Nat → Byte) (m : Memory) (a k : Nat) (b : Byte) :
    Memory.read dflt (Memory.insert m a b) k = if k = a then b else Memory.read dflt m k := by
  induction m with
  | nil => simp only [Memory.insert, Memory.read, eq_comm]
  | cons c rest ih =>
    unfold Memory.insert
    split
    · simp only [Memory.read, eq_comm]
    · split
      · rename_i hc
        simp only [Memory.read, hc]
        by_cases hk : k = a
        · simp [hk]
        · simp [hk, Ne.symm hk]
      · rename_i hc
        simp only [Memory.read, ih]
        by_cases hk : k = a
        · subst hk; simp [hc]
        · simp [hk]

theorem Memory.read_erase (dflt : Nat → Byte) (m : Memory) (a k : Nat) :
    Memory.read dflt (Memory.erase m a) k = if k = a then dflt k else Memory.read dflt m k := by
  induction m with
  | nil => simp [Memory.erase]
  | cons c rest ih =>
    unfold Memory.erase
    split
    · rename_i hc
      rw [ih, Memory.read, hc]
      by_cases hk : k = a
      · simp [hk]
      · simp [hk, Ne.symm hk]
    · rename_i hc
      rw [Memory.read, ih, Memory.read]
      by_cases hk : k = a
      · subst hk; simp [hc]
      · simp [hk]

/-- A write is read back where it went and nowhere else. -/
@[simp] theorem Memory.read_write (dflt : Nat → Byte) (m : Memory) (a k : Nat) (b : Byte) :
    Memory.read dflt (Memory.write dflt m a b) k = if k = a then b else Memory.read dflt m k := by
  unfold Memory.write
  split
  · rename_i hb
    rw [Memory.read_erase]
    by_cases hk : k = a <;> simp [hk, hb]
  · exact Memory.read_insert ..

/-- Consecutive bytes are read back where they went and nowhere else. -/
theorem Memory.read_writeAll (dflt : Nat → Byte) (bs : List Byte) (m : Memory) (a k : Nat) :
    Memory.read dflt (Memory.writeAll dflt m a bs) k =
      if a ≤ k then bs.getD (k - a) (Memory.read dflt m k) else Memory.read dflt m k := by
  induction bs generalizing m a with
  | nil => simp [Memory.writeAll]
  | cons b rest ih =>
    rw [Memory.writeAll, ih, Memory.read_write]
    rcases Nat.lt_trichotomy k a with h | h | h
    · have : ¬ a + 1 ≤ k := by omega
      have : ¬ a ≤ k := by omega
      have : k ≠ a := by omega
      simp [*]
    · subst h; simp
    · have h1 : a + 1 ≤ k := by omega
      have h2 : a ≤ k := by omega
      have h3 : k ≠ a := by omega
      obtain ⟨j, rfl⟩ : ∃ j, k = a + 1 + j := ⟨k - (a + 1), by omega⟩
      have h4 : a + 1 + j - a = j + 1 := by omega
      have h5 : a + 1 + j - (a + 1) = j := by omega
      simp [h1, h2, h3, h4, h5]

theorem Memory.wfFrom_cons {c : Host.Cell} {rest : Memory} :
    Memory.wfFrom dflt size lo (c :: rest) = true ↔
      lo ≤ c.1 ∧ c.1 < size ∧ c.2 ≠ dflt c.1 ∧ Memory.wfFrom dflt size (c.1 + 1) rest = true := by
  simp [Memory.wfFrom, and_assoc]

theorem Memory.wfFrom_mono {lo' : Nat} (hl : lo' ≤ lo) (h : Memory.wfFrom dflt size lo m = true) :
    Memory.wfFrom dflt size lo' m = true := by
  cases m with
  | nil => rfl
  | cons c rest =>
    rw [Memory.wfFrom_cons] at h ⊢
    exact ⟨by omega, h.2⟩

theorem Memory.wfFrom_insert (hb : b ≠ dflt a) (ha : a < size) (hl : lo ≤ a)
    (h : Memory.wfFrom dflt size lo m = true) : Memory.wfFrom dflt size lo (Memory.insert m a b) = true := by
  induction m generalizing lo with
  | nil => simpa [Memory.insert, Memory.wfFrom_cons, Memory.wfFrom] using ⟨⟨hl, ha⟩, hb⟩
  | cons c rest ih =>
    obtain ⟨h1, h2, h3, h4⟩ := Memory.wfFrom_cons.1 h
    unfold Memory.insert
    split
    · exact Memory.wfFrom_cons.2 ⟨hl, ha, hb, Memory.wfFrom_cons.2 ⟨by assumption, h2, h3, h4⟩⟩
    · split
      · rename_i hc
        exact Memory.wfFrom_cons.2 ⟨hl, ha, hb, by simpa [hc] using h4⟩
      · exact Memory.wfFrom_cons.2 ⟨h1, h2, h3, ih (by omega) h4⟩

theorem Memory.wfFrom_erase (h : Memory.wfFrom dflt size lo m = true) :
    Memory.wfFrom dflt size lo (Memory.erase m a) = true := by
  induction m generalizing lo with
  | nil => rfl
  | cons c rest ih =>
    obtain ⟨h1, h2, h3, h4⟩ := Memory.wfFrom_cons.1 h
    unfold Memory.erase
    split
    · exact Memory.wfFrom_mono (by omega) (ih h4)
    · exact Memory.wfFrom_cons.2 ⟨h1, h2, h3, ih h4⟩

/-- A write keeps the canonical form. -/
theorem Memory.wf_write (ha : a < size) (h : Memory.wf dflt size m = true) :
    Memory.wf dflt size (Memory.write dflt m a b) = true := by
  unfold Memory.wf Memory.write at *
  split
  · exact Memory.wfFrom_erase h
  · exact Memory.wfFrom_insert (by assumption) ha (Nat.zero_le _) h

/-- Writing consecutive bytes keeps the canonical form. -/
theorem Memory.wf_writeAll {bs : List Byte} (ha : a + bs.length ≤ size) (h : Memory.wf dflt size m = true) :
    Memory.wf dflt size (Memory.writeAll dflt m a bs) = true := by
  induction bs generalizing m a with
  | nil => exact h
  | cons b rest ih =>
    simp only [List.length_cons] at ha
    exact ih (by omega) (Memory.wf_write (by omega) h)

/-- Reset lists nothing. -/
theorem State.reset_memWf : State.reset.memWf = true := rfl

end Sys2Proof.Machine
end

