-- ==== Sys2Proof/Laws/Exec.lean ====
section
/-!
SUPPORT. What each shared operation and each kind of step can do, said once.
-/
namespace Sys2Proof.Machine

variable {s t : State}

/-! ### Shared operations -/

theorem next_eq : (Host.Outcome.next s : Host.Outcome State Fault Refusal) = .next t ↔ t = s := by
  rw [Host.Outcome.next.injEq, eq_comm]

@[simp] theorem raise_eq (r : Fault) (s : State) : raise r s = .next (s.markFault r) := rfl

/-- A push either overruns, and only marks the fault, or happens. -/
theorem serPush_next {who : Agent} {u : Byte} {f : State → State} :
    serPush who u f s = .next t ↔
      (s.ready = true ∧ s.inflight = none ∧ t = f (s.push u)) ∨
        ((s.ready = false ∨ s.inflight ≠ none) ∧ t = s.markFault (.txOverrun who u)) := by
  unfold serPush
  cases s.ready <;> cases s.inflight <;> simp [eq_comm]

/-- A load marks LOAD_WHILE_BUSY, or marks MSG_OVERFLOW, or fills the buffer. -/
theorem loadMessage_next {m : List Byte} :
    loadMessage m s = .next t ↔
      (s.busy = true ∧ t = s.markFault (.loadWhileBusy s.upc)) ∨
      (s.busy = false ∧ s.params.txbufCap < m.length ∧ t = s.markFault (.msgOverflow s.upc m.length)) ∨
      (s.busy = false ∧ m.length ≤ s.params.txbufCap ∧ t = (s.fill m).advance) := by
  unfold loadMessage
  by_cases h : s.params.txbufCap < m.length
  · cases s.busy <;> simp [h, Nat.not_le.2 h, eq_comm]
  · cases s.busy <;> simp [h, Nat.not_lt.1 h, eq_comm]

theorem length_message (s : State) (sel : Selector) :
    (s.message sel).length = 2 ∨ (s.message sel).length = 11 := by
  cases sel
  · exact .inr rfl
  · exact .inl rfl
  · exact .inl rfl

/-- The length of a message is its selector's. -/
theorem State.length_message_congr (s t : State) (sel : Selector) : (t.message sel).length = (s.message sel).length := by
  cases sel <;> rfl

/-- `TXBUF[i]` after a fill. -/
theorem State.txAt_fill (m : List Byte) (i : Nat) : (s.fill m).txAt i = m.getD i (s.txAt i) := by
  simp [State.txAt, Memory.read_writeAll]

/-! ### The meanings -/

theorem execTxClaim_next :
    execTxClaim s = .next t ↔
      (s.busy = true ∧ t = s.setIm false) ∨ (s.busy = false ∧ t = (s.setIm false).advance) := by
  have h : (s.setIm true).setIm false = s.setIm false := rfl
  unfold execTxClaim
  cases hb : s.busy <;> simp [hb, h, eq_comm]

theorem execTxWaitRdy_next :
    execTxWaitRdy s = .next t ↔ (s.ready = true ∧ t = s.advance) ∨ (s.ready = false ∧ t = s) := by
  unfold execTxWaitRdy
  cases s.ready <;> simp only [next_eq, reduceIte, Bool.false_eq_true] <;> simp

theorem execTxPush0_next :
    execTxPush0 s = .next t ↔
      (s.busy = false ∧ t = s.markFault (.pushWithoutLoad s.upc)) ∨
        (s.busy = true ∧ serPush .seq (s.txAt 0) State.advance s = .next t) := by
  unfold execTxPush0
  cases s.busy <;> simp only [raise_eq, next_eq, reduceIte, Bool.true_eq_false] <;> simp

theorem execLoopWord_next {imm : Byte} :
    execLoopWord imm s = .next t ↔
      (s.word = 15#4 ∧ t = (s.setWord 0#4).advance) ∨
        (s.word ≠ 15#4 ∧ t = (s.setWord (s.word + 1#4)).branch (branchTarget imm)) := by
  unfold execLoopWord State.lastWord
  by_cases h : s.word = 15#4
  · rw [h, if_pos (by rfl), next_eq]; simp
  · rw [if_neg (by simpa using h), next_eq]; simp [h]

theorem execLoopTok_next {imm : Byte} :
    execLoopTok imm s = .next t ↔
      (s.tok = 31#5 ∧ t = (s.setTok 0#5).advance) ∨
        (s.tok ≠ 31#5 ∧ t = (s.setTok (s.tok + 1#5)).branch (branchTarget imm)) := by
  unfold execLoopTok State.lastTok
  by_cases h : s.tok = 31#5
  · rw [h, if_pos (by rfl), next_eq]; simp
  · rw [if_neg (by simpa using h), next_eq]; simp [h]

theorem execLoopRow_next {imm : Byte} :
    execLoopRow imm s = .next t ↔
      (s.row.toNat + 1 = s.params.numRows ∧ t = (s.setRow 0#16).advance) ∨
        (s.row.toNat + 1 ≠ s.params.numRows ∧ t = (s.setRow (s.row + 1#16)).branch (branchTarget imm)) := by
  unfold execLoopRow State.lastRow
  by_cases h : s.row.toNat + 1 = s.params.numRows
  · rw [if_pos (by simpa using h), next_eq]; simp [h]
  · rw [if_neg (by simpa using h), next_eq]; simp [h]

/-- A handler invocation marks CURSOR_RANGE, or pushes (or overruns), or clears `BUSY`. -/
theorem execTxc_next :
    execTxc s = .next t ↔
      (0 < s.pending ∧ s.params.txbufCap ≤ s.cursor ∧ t = s.markFault (.cursorRange s.cursor)) ∨
      (0 < s.pending ∧ s.cursor < s.params.txbufCap ∧
        serPush .txc (s.txAt s.cursor) (fun t => t.enterHandler.popUnit.leaveHandler) s = .next t) ∨
      (s.pending = 0 ∧ t = s.enterHandler.clearBusy) := by
  unfold execTxc
  by_cases h : 0 < s.pending
  · by_cases h' : s.params.txbufCap ≤ s.cursor
    · simp [h, h', eq_comm]; omega
    · simp only [h, h', if_true, if_false]
      constructor
      · intro e; exact .inr (.inl ⟨trivial, by omega, e⟩)
      · rintro (⟨-, h1, -⟩ | ⟨-, -, e⟩ | ⟨h1, -⟩)
        · exact absurd h1 (by simp)
        · exact e
        · omega
  · have : s.pending = 0 := by omega
    simp [this, eq_comm]

@[simp] theorem exec_ceOn (s : State) : exec .ceOn s = .next (s.driveCe true).advance := rfl
@[simp] theorem exec_ceOff (s : State) : exec .ceOff s = .next (s.driveCe false).advance := rfl
@[simp] theorem exec_oeOn (s : State) : exec .oeOn s = .next (s.driveOe true).advance := rfl
@[simp] theorem exec_oeOff (s : State) : exec .oeOff s = .next (s.driveOe false).advance := rfl
@[simp] theorem exec_stbH (s : State) : exec .stbH s = .next (s.driveStb stbHighLevel).advance := rfl
@[simp] theorem exec_stbL (s : State) : exec .stbL s = .next (s.driveStb (!stbHighLevel)).advance := rfl
@[simp] theorem exec_drvLo (s : State) : exec .drvLo s = .next (s.driveAlo (addrLo s.addr)).advance := rfl
@[simp] theorem exec_drvMid (s : State) : exec .drvMid s = .next (s.driveAmid (addrMid s.addr)).advance := rfl
@[simp] theorem exec_drvHi (s : State) : exec .drvHi s = .next (s.driveAhi (addrHi s.addr)).advance := rfl
@[simp] theorem exec_settle (s : State) : exec .settle s = .next (s.setSettled (s.marginMet || s.settled)).advance := rfl
@[simp] theorem exec_smpH (s : State) : exec .smpH s = .next (s.capture (capHigh s.word)).advance := rfl
@[simp] theorem exec_smpL (s : State) : exec .smpL s = .next (s.capture (capLow s.word)).advance := rfl
@[simp] theorem exec_ainc (s : State) : exec .ainc s = .next s.stepAddr.advance := rfl
@[simp] theorem exec_serInit (s : State) : exec .serInit s = .next s.turnSerOn.advance := rfl
@[simp] theorem exec_txClaim (s : State) : exec .txClaim s = execTxClaim s := rfl
@[simp] theorem exec_txLoadBanner (s : State) : exec .txLoadBanner s = loadMessage (s.message .banner) s := rfl
@[simp] theorem exec_txLoadHex (s : State) : exec .txLoadHex s = loadMessage (s.message .hex) s := rfl
@[simp] theorem exec_txLoadCrlf (s : State) : exec .txLoadCrlf s = loadMessage (s.message .crlf) s := rfl
@[simp] theorem exec_txWaitRdy (s : State) : exec .txWaitRdy s = execTxWaitRdy s := rfl
@[simp] theorem exec_txPush0 (s : State) : exec .txPush0 s = execTxPush0 s := rfl
@[simp] theorem exec_loopWord (imm : Byte) (s : State) : exec (.loopWord imm) s = execLoopWord imm s := rfl
@[simp] theorem exec_loopTok (imm : Byte) (s : State) : exec (.loopTok imm) s = execLoopTok imm s := rfl
@[simp] theorem exec_loopRow (imm : Byte) (s : State) : exec (.loopRow imm) s = execLoopRow imm s := rfl
@[simp] theorem exec_idle (s : State) : exec .idle s = .next s := rfl
@[simp] theorem exec_txc (s : State) : exec .txc s = execTxc s := rfl

theorem serPush_answers (who : Agent) (u : Byte) (f : State → State) (s : State) :
    ∃ t, serPush who u f s = .next t := by
  unfold serPush; split <;> exact ⟨_, rfl⟩

theorem loadMessage_answers (m : List Byte) (s : State) : ∃ t, loadMessage m s = .next t := by
  unfold loadMessage
  split
  · exact ⟨_, rfl⟩
  · split <;> exact ⟨_, rfl⟩

/-- Every meaning answers a next state: a fault is a mark in it (60_exceptions.md R282), and none refuses. -/
theorem exec_answers (i : Instr) (s : State) : ∃ t, exec i s = .next t := by
  cases i with
  | txLoadBanner => exact loadMessage_answers _ s
  | txLoadHex => exact loadMessage_answers _ s
  | txLoadCrlf => exact loadMessage_answers _ s
  | txClaim => rw [exec_txClaim]; unfold execTxClaim; dsimp only; split <;> exact ⟨_, rfl⟩
  | txWaitRdy => rw [exec_txWaitRdy]; unfold execTxWaitRdy; split <;> exact ⟨_, rfl⟩
  | txPush0 =>
    rw [exec_txPush0]; unfold execTxPush0
    split
    · exact ⟨_, rfl⟩
    · exact serPush_answers ..
  | loopWord imm => rw [exec_loopWord]; unfold execLoopWord; split <;> exact ⟨_, rfl⟩
  | loopTok imm => rw [exec_loopTok]; unfold execLoopTok; split <;> exact ⟨_, rfl⟩
  | loopRow imm => rw [exec_loopRow]; unfold execLoopRow; split <;> exact ⟨_, rfl⟩
  | txc =>
    rw [exec_txc]; unfold execTxc
    split
    · split
      · exact ⟨_, rfl⟩
      · exact serPush_answers ..
    · exact ⟨_, rfl⟩
  | ceOn => exact ⟨_, rfl⟩
  | ceOff => exact ⟨_, rfl⟩
  | oeOn => exact ⟨_, rfl⟩
  | oeOff => exact ⟨_, rfl⟩
  | stbH => exact ⟨_, rfl⟩
  | stbL => exact ⟨_, rfl⟩
  | drvLo => exact ⟨_, rfl⟩
  | drvMid => exact ⟨_, rfl⟩
  | drvHi => exact ⟨_, rfl⟩
  | settle => exact ⟨_, rfl⟩
  | smpH => exact ⟨_, rfl⟩
  | smpL => exact ⟨_, rfl⟩
  | ainc => exact ⟨_, rfl⟩
  | serInit => exact ⟨_, rfl⟩
  | idle => exact ⟨_, rfl⟩

/-! ### The agents and the step -/

/-- A SEQ step executes the fetched micro-op or marks ILLEGAL_UOP. -/
theorem seqStep_next :
    seqStep s = .next t ↔
      (∃ i, decodeFetched s.fetchWord = .ok i ∧ exec i s = .next t) ∨
        (∃ e, decodeFetched s.fetchWord = .error e ∧ t = s.markFault (.illegalUop s.upc s.fetchWord)) := by
  unfold seqStep
  cases decodeFetched s.fetchWord <;> simp [eq_comm]

/-- A SER step shifts the unit in flight (or marks TC_LOST), or raises `READY`. -/
theorem serStep_next :
    serStep s = .next t ↔
      (∃ u, s.inflight = some u ∧ s.tcPend = true ∧ t = s.markFault (.tcLost u)) ∨
      (∃ u, s.inflight = some u ∧ s.tcPend = false ∧ t = s.shiftOut u) ∨
      (s.inflight = none ∧ t = s.raiseReady) := by
  unfold serStep
  cases s.inflight <;> cases s.tcPend <;> simp [eq_comm]

/-- The agent that moves is enabled, or it is SEQ. -/
theorem State.mover_cases (s : State) :
    s.mover = .seq ∨ (s.mover = .txc ∧ s.txcEnabled = true) ∨
      (s.mover = .ser ∧ (s.serReadyEnabled || s.serShiftEnabled) = true) := by
  unfold State.mover
  by_cases hd : s.txcDue = true
  · rw [if_pos hd]
    exact .inr (.inl ⟨rfl, (Bool.and_eq_true_iff.1 hd).1⟩)
  · rw [if_neg hd]
    split
    next h =>
      simp only [Bool.and_eq_true] at h
      cases ht : s.turn
      · exact .inl rfl
      · exact .inr (.inl ⟨rfl, by simpa [ht, State.enabled] using h.2⟩)
      · exact .inr (.inr ⟨rfl, by simpa [ht, State.enabled] using h.2⟩)
    · exact .inl rfl

/-- A due handler moves. -/
theorem State.mover_of_txcDue (h : s.txcDue = true) : s.mover = .txc := if_pos h

/-- SEQ moves once it can wait no longer, unless the handler is due too. -/
theorem State.mover_of_seqDue (h : s.txcDue = false) (hw : s.seqWait = 0) : s.mover = .seq := by
  simp [State.mover, h, hw]

/-- With neither the handler nor the transmitter enabled, SEQ moves. -/
theorem State.mover_of_others_off (h : s.enabled .txc = false) (h' : s.enabled .ser = false) : s.mover = .seq := by
  rcases s.mover_cases with hm | ⟨-, he⟩ | ⟨-, he⟩
  · exact hm
  · exact absurd (h.symm.trans he) Bool.false_ne_true
  · exact absurd (h'.symm.trans he) Bool.false_ne_true

/-- All a step can do: no fault is marked, and SEQ moves, or the handler moves with its notification pending and
unmasked, or the transmitter takes one of its two enabled steps; then the turn passes. -/
theorem step_next (h : step s = .next t) :
    s.fault = none ∧ ∃ u, t = u.passTurn s.mover ∧
      ((s.mover = .seq ∧ seqStep s = .next u) ∨
       (s.mover = .txc ∧ s.tcPend = true ∧ s.im = false ∧ execTxc s = .next u) ∨
       (s.mover = .ser ∧ (s.inflight ≠ none ∨ (s.serOn = true ∧ s.ready = false)) ∧ serStep s = .next u)) := by
  unfold step at h
  cases hf : s.fault with
  | some r => simp [hf] at h
  | none =>
    simp only [hf] at h
    cases ha : agentStep s.mover s with
    | fault r => simp [ha, thenPassTurn] at h
    | refused r => simp [ha, thenPassTurn] at h
    | next u =>
      simp only [ha, thenPassTurn, Host.Outcome.next.injEq] at h
      refine ⟨rfl, u, h.symm, ?_⟩
      rcases s.mover_cases with hm | ⟨hm, he⟩ | ⟨hm, he⟩ <;> rw [hm] at ha
      · exact .inl ⟨hm, ha⟩
      · simp only [State.txcEnabled, Bool.and_eq_true, Bool.not_eq_true'] at he
        exact .inr (.inl ⟨hm, he.1.1, he.1.2, ha⟩)
      · refine .inr (.inr ⟨hm, ?_, ha⟩)
        cases hi : s.inflight with
        | some u => exact .inl (by simp)
        | none =>
          simp only [State.serReadyEnabled, State.serShiftEnabled, hi, hf] at he
          exact .inr (by simpa using he)

/-- After a spin of SEQ only the schedule has moved on. -/
theorem State.after_spin (hf : s.fault = none) (hm : s.mover = .seq) (h : seqStep s = .next s) :
    s.after = s.passTurn .seq := by
  simp only [State.after, step, hf, hm, agentStep, h, thenPassTurn]

/-- With no fault marked, the step is the moving agent's. -/
theorem step_eq (h : s.fault = none) : step s = thenPassTurn s.mover (agentStep s.mover s) := by
  simp [step, h]

end Sys2Proof.Machine
end

