-- ==== Sys2Proof/Laws/PerInstr.lean ====
section
/-!
SUPPORT. Per micro-op: its encoding lies in its row of spec/opcode_table.json (30_encoding.md R136).
-/
namespace Sys2Proof.Laws.Row

/-- The `mask` of the row. -/
def mask (i : Instr) : Word :=
  match i with
  | .ceOn => 0xFFFF#16
  | .ceOff => 0xFFFF#16
  | .oeOn => 0xFFFF#16
  | .oeOff => 0xFFFF#16
  | .stbH => 0xFFFF#16
  | .stbL => 0xFFFF#16
  | .drvLo => 0xFFFF#16
  | .drvMid => 0xFFFF#16
  | .drvHi => 0xFFFF#16
  | .settle => 0xFFFF#16
  | .smpH => 0xFFFF#16
  | .smpL => 0xFFFF#16
  | .ainc => 0xFFFF#16
  | .serInit => 0xFFFF#16
  | .txClaim => 0xFFFF#16
  | .txLoadBanner => 0xFFFF#16
  | .txLoadHex => 0xFFFF#16
  | .txLoadCrlf => 0xFFFF#16
  | .txWaitRdy => 0xFFFF#16
  | .txPush0 => 0xFFFF#16
  | .loopWord _ => 0xFFC0#16
  | .loopTok _ => 0xFFC0#16
  | .loopRow _ => 0xFFC0#16
  | .idle => 0xFFFF#16
  | .txc => 0xFFFF#16

/-- The `match` of the row. -/
def pattern (i : Instr) : Word :=
  match i with
  | .ceOn => 0x0100#16
  | .ceOff => 0x0200#16
  | .oeOn => 0x0300#16
  | .oeOff => 0x0400#16
  | .stbH => 0x0800#16
  | .stbL => 0x0900#16
  | .drvLo => 0x0A00#16
  | .drvMid => 0x0B00#16
  | .drvHi => 0x0C00#16
  | .settle => 0x1000#16
  | .smpH => 0x1100#16
  | .smpL => 0x1200#16
  | .ainc => 0x1300#16
  | .serInit => 0x2000#16
  | .txClaim => 0x2100#16
  | .txLoadBanner => 0x2200#16
  | .txLoadHex => 0x2201#16
  | .txLoadCrlf => 0x2202#16
  | .txWaitRdy => 0x2300#16
  | .txPush0 => 0x2400#16
  | .loopWord _ => 0x3000#16
  | .loopTok _ => 0x3100#16
  | .loopRow _ => 0x3200#16
  | .idle => 0x3F00#16
  | .txc => 0x4000#16

/-- A well-formed micro-op's word, masked as its row says, is the row's match. -/
def Statement (i : Instr) : Prop := i.WellFormed → encode i &&& mask i = pattern i

theorem ceOn : Statement .ceOn := fun _ => rfl
theorem ceOff : Statement .ceOff := fun _ => rfl
theorem oeOn : Statement .oeOn := fun _ => rfl
theorem oeOff : Statement .oeOff := fun _ => rfl
theorem stbH : Statement .stbH := fun _ => rfl
theorem stbL : Statement .stbL := fun _ => rfl
theorem drvLo : Statement .drvLo := fun _ => rfl
theorem drvMid : Statement .drvMid := fun _ => rfl
theorem drvHi : Statement .drvHi := fun _ => rfl
theorem settle : Statement .settle := fun _ => rfl
theorem smpH : Statement .smpH := fun _ => rfl
theorem smpL : Statement .smpL := fun _ => rfl
theorem ainc : Statement .ainc := fun _ => rfl
theorem serInit : Statement .serInit := fun _ => rfl
theorem txClaim : Statement .txClaim := fun _ => rfl
theorem txLoadBanner : Statement .txLoadBanner := fun _ => rfl
theorem txLoadHex : Statement .txLoadHex := fun _ => rfl
theorem txLoadCrlf : Statement .txLoadCrlf := fun _ => rfl
theorem txWaitRdy : Statement .txWaitRdy := fun _ => rfl
theorem txPush0 : Statement .txPush0 := fun _ => rfl
theorem loopWord (imm : Byte) : Statement (.loopWord imm) := by
  revert imm; unfold Statement Instr.WellFormed IsTarget; decide
theorem loopTok (imm : Byte) : Statement (.loopTok imm) := by
  revert imm; unfold Statement Instr.WellFormed IsTarget; decide
theorem loopRow (imm : Byte) : Statement (.loopRow imm) := by
  revert imm; unfold Statement Instr.WellFormed IsTarget; decide
theorem idle : Statement .idle := fun _ => rfl
theorem txc : Statement .txc := fun _ => rfl

end Sys2Proof.Laws.Row
end

