-- ==== Sys2Proof/Laws/Program.lean ====
section
/-!
SUPPORT. What SEQ does on the fixed control store, and which parts of the state the predicates of Safety.lean look at.
-/
namespace Sys2Proof.Machine

variable {s t : State}

/-! ### Fetching from the fixed control store -/

theorem State.fetchWord_fixed (h : s.cs = []) : s.fetchWord = programWord s.upc.toNat := by
  unfold State.fetchWord State.csWord
  rw [h, Memory.read_nil, Memory.read_nil]
  have e1 : programByte (2 * s.upc.toNat) = opField (programWord s.upc.toNat) := by
    unfold programByte; rw [if_pos (by omega)]; congr 2; omega
  have e2 : programByte (2 * s.upc.toNat + 1) = immField (programWord s.upc.toNat) := by
    unfold programByte; rw [if_neg (by omega)]; congr 2; omega
  rw [e1, e2, packWord_fields]

theorem decode_programWord : ∀ u : Fin 31, decodeFetched (programWord u) = .ok (programOps.getD u .idle) := by decide

/-- In the fixed program SEQ executes the micro-op of the listing. -/
theorem seqStep_fixed (h : s.cs = []) (hu : s.upc.toNat ≤ 0x1E) :
    seqStep s = exec (programOps.getD s.upc.toNat .idle) s := by
  unfold seqStep
  rw [State.fetchWord_fixed h,
    show decodeFetched (programWord s.upc.toNat) = _ from decode_programWord ⟨s.upc.toNat, by omega⟩]

theorem State.upc_eq {k : Nat} (h : s.upc.toNat = k) : s.upc = BitVec.ofNat 6 k := by
  subst h; simp

/-! ### Samples and addresses -/

/-- A capture writes the bus sample at its position and nothing else in `CAP`. -/
theorem State.capture_capAt (s : State) (i j : Fin 32) :
    (s.capture i).capAt j = if j = i then s.busSample else s.capAt j := by
  simp only [State.capture, State.capAt, State.putCap_cap, State.countDraw_cap, Vector.get_eq_getElem]
  rw [Vector.getElem_set]
  simp only [Fin.ext_iff, eq_comm]

theorem rowAddress_succ (r w : Nat) : rowAddress r w + 1#20 = rowAddress r (w + 1) := by
  unfold rowAddress
  apply BitVec.eq_of_toNat_eq
  simp [BitVec.toNat_add]
  omega

theorem rowAddress_next (r : Nat) : rowAddress r 16 = rowAddress (r + 1) 0 := by
  unfold rowAddress; congr 1

/-- Joining the three fields of an address gives it back. -/
theorem joinAddr_split (a : Address) : joinAddr (addrHi a) (addrMid a) (addrLo a) = a := by
  unfold joinAddr addrHi addrMid addrLo
  ext i hi
  rw [← BitVec.getLsbD_eq_getElem, ← BitVec.getLsbD_eq_getElem, BitVec.getLsbD_append, BitVec.getLsbD_append]
  by_cases h : i < 8
  · simp [h]
  · by_cases h' : i < 16
    · have h1 : i - 8 < 8 := by omega
      have : 8 + (i - 8) = i := by omega
      simp [h, h1, this, -Nat.add_sub_cancel']
    · have h1 : ¬ i - 8 < 8 := by omega
      have h2 : i - 8 - 8 < 4 := by omega
      have : 16 + (i - 8 - 8) = i := by omega
      simp [h, h1, h2, this, -Nat.add_sub_cancel']

theorem word_succ_toNat {w : BitVec 4} (h : w ≠ 15#4) : (w + 1#4).toNat = w.toNat + 1 := by
  have := w.isLt
  have : w.toNat ≠ 15 := fun e => h (BitVec.eq_of_toNat_eq e)
  rw [BitVec.toNat_add]; simp; omega

theorem tok_succ_toNat {w : BitVec 5} (h : w ≠ 31#5) : (w + 1#5).toNat = w.toNat + 1 := by
  have := w.isLt
  have : w.toNat ≠ 31 := fun e => h (BitVec.eq_of_toNat_eq e)
  rw [BitVec.toNat_add]; simp; omega

/-! ### What the predicates look at -/

theorem State.rowByte_congr (h : t.rom = s.rom) (r i : Nat) : t.rowByte r i = s.rowByte r i := by
  simp only [State.rowByte, State.romWord, h]

theorem State.rowTokens_congr (h : t.rom = s.rom) : t.rowTokens = s.rowTokens := by
  funext r n; simp only [State.rowTokens, State.rowByte, State.romWord, h]

theorem State.lineOf_congr (h : t.rom = s.rom) : t.lineOf = s.lineOf := by
  funext r; simp only [State.lineOf, State.rowTokens, State.rowByte, State.romWord, h]

theorem State.stream_congr (h : t.rom = s.rom) : t.stream = s.stream := by
  funext r; simp only [State.stream, State.lineOf_congr h]

/-- `Walk` looks at no transmit state, no fault mark and none of the model's own fields. -/
theorem State.Walk.congr (hw : s.Walk) (h1 : t.upc = s.upc) (h2 : t.addr = s.addr) (h3 : t.row = s.row)
    (h4 : t.word = s.word) (h5 : t.tok = s.tok) (h6 : t.cap = s.cap) (h7 : t.ce = s.ce) (h8 : t.oe = s.oe)
    (h9 : t.stb = s.stb) (h10 : t.pinAlo = s.pinAlo) (h11 : t.pinAmid = s.pinAmid) (h12 : t.pinAhi = s.pinAhi)
    (h13 : t.settled = s.settled) (h14 : t.stbStale = s.stbStale) (h15 : t.rom = s.rom)
    (h16 : t.params = s.params) : t.Walk := by
  obtain ⟨⟩ := hw
  constructor <;>
    simp only [State.At, State.captured, State.capAt, State.marginMet, State.rowByte_congr h15, *] <;> assumption

theorem State.loaded_congr (h1 : t.rom = s.rom) (h2 : t.upc = s.upc) (h3 : t.row = s.row) (h4 : t.tok = s.tok)
    (h5 : t.params = s.params) : t.loaded = s.loaded := by
  simp only [State.loaded, State.stream_congr h1, State.rowTokens_congr h1, h2, h3, h4, h5]

theorem State.txUnits_congr (h : t.txbuf = s.txbuf) : t.txUnits = s.txUnits := by
  funext i n; simp only [State.txUnits, State.txAt, h]

theorem State.unsent_congr (h1 : t.upc = s.upc) (h2 : t.txbuf = s.txbuf) (h3 : t.pending = s.pending)
    (h4 : t.cursor = s.cursor) (h5 : t.inflight = s.inflight) : t.unsent = s.unsent := by
  simp only [State.unsent, State.AtWait, State.AtPush, State.At, State.txUnits_congr h2, *]

theorem State.lastLoaded_congr (h1 : t.upc = s.upc) (h2 : t.row = s.row) (h3 : t.tok = s.tok) :
    t.lastLoaded = s.lastLoaded := by
  simp only [State.lastLoaded, h1, h2, h3]

/-- `L` by the place in the program: 11 while the banner is the last message loaded, 2 after any other. -/
theorem State.lastLength_eq (s : State) :
    s.lastLength =
      if s.upc.toNat ≤ 0x02 then 0
      else if s.upc.toNat ≤ 0x15 ∧ s.tok = 0#5 ∧ s.row = 0#16 then 11
      else 2 := by
  unfold State.lastLength State.lastLoaded
  by_cases h1 : s.upc.toNat ≤ 0x02
  · simp only [h1, if_true]
  · by_cases h2 : s.upc.toNat ≤ 0x15
    · by_cases h3 : s.tok = 0#5 <;> by_cases h4 : s.row = 0#16 <;> simp [h1, h2, h3, h4] <;> rfl
    · by_cases h3 : s.upc.toNat ≤ 0x1A <;> simp [h1, h2, h3] <;> rfl

/-! ### The expected stream and the buffer's units, one piece at a time -/

theorem State.stream_succ (s : State) (n : Nat) :
    s.stream (n + 1) = s.stream n ++ s.rowTokens n 32 ++ crlfMessage := by
  simp [State.stream, List.range_succ, State.lineOf]

theorem State.rowTokens_succ (s : State) (r n : Nat) :
    s.rowTokens r (n + 1) = s.rowTokens r n ++ hexToken (s.rowByte r n) := by
  simp [State.rowTokens, List.range_succ]

theorem State.txUnits_succ (s : State) (i n : Nat) : s.txUnits i (n + 1) = s.txAt i :: s.txUnits (i + 1) n := by
  simp only [State.txUnits, List.range_succ_eq_map, List.map_cons, List.map_map]
  congr 1
  apply List.map_congr_left
  intro k _
  simp only [Function.comp]
  congr 1
  omega

/-- After a fill the buffer's first units are the message. -/
theorem State.txUnits_fill (s : State) (m : List Byte) : (s.fill m).txUnits 0 m.length = m := by
  apply List.ext_getElem
  · simp [State.txUnits]
  · intro n h1 h2
    simp [State.txUnits, State.txAt_fill, h2]

end Sys2Proof.Machine
end

