-- ==== Sys2Proof/Tests/Slice0.lean ====
section
/-!
SUPPORT. Tests. Expected results are those of spec/95_test_vectors.md (V1 to V12, E3) and of the encoding tables of
spec/30_encoding.md; and, for every statement with hypotheses, states and operands that meet them.
-/
namespace Sys2Proof.Tests
open Sys2Proof Sys2Proof.Machine

/-- The vectors' configuration: 65536 rows, capacity 11, margin met. -/
def inst : Params := { numRows := 65536, txbufCap := 11, tMin := 1, tSettle := 1 }
/-- The reset state in that configuration, with no agent due to move (the model's own fields, log entry 5). -/
def base : State := { State.resetWith Unspecified.zero inst with txcWait := 1, seqWait := 1 }
/-- A field of the state an outcome goes on with. -/
def got {α : Type} (o : Host.Outcome State Fault Refusal) (f : State → α) : Option α :=
  match o with
  | .next t => some (f t)
  | .fault _ => none
  | .refused _ => none
/-- The pins present 0x00010, the bus is settled and enabled, and the ROM lists 0xBEEF there (V5). -/
def bus : State :=
  { base with ce := true, oe := true, settled := true, stbStale := false, stb := true, pinAlo := 0x10#8,
              rom := [(0x20, 0xBE#8), (0x21, 0xEF#8)] }
/-- A message is loaded, the transmitter is free, and a notification is latched (V8.1). -/
def tx : State :=
  { base with serOn := true, ready := true, busy := true, tcPend := true, pending := 1, cursor := 1,
              txbuf := [(0, 0x0D#8), (1, 0x0A#8)] }

/-! ### Well-formedness (30_encoding.md R130, R131) -/

theorem test_wf_loopWord_refuses : Instr.wellFormed (.loopWord 0x47#8) = false := by decide
theorem test_wf_loopTok_refuses : Instr.wellFormed (.loopTok 0xC0#8) = false := by decide
theorem test_wf_loopRow_refuses : Instr.wellFormed (.loopRow 0x80#8) = false := by decide
theorem test_wf_loops_accept :
    [Instr.loopWord 0x3F#8, .loopTok 0x14#8, .loopRow 0x05#8].map Instr.wellFormed = [true, true, true] := by decide
theorem test_txc_not_storable : Instr.storable .txc = false ∧ Instr.storable .ceOn = true := by decide

/-! ### Decoding, words written out from 30_encoding.md R129 (OP, then IMM) -/

theorem test_decode_bus :
    [0b0000000100000000#16, 0b0000001000000000#16, 0b0000001100000000#16, 0b0000010000000000#16,
     0b0000100000000000#16, 0b0000100100000000#16, 0b0000101000000000#16, 0b0000101100000000#16,
     0b0000110000000000#16].map decode =
    [Instr.ceOn, .ceOff, .oeOn, .oeOff, .stbH, .stbL, .drvLo, .drvMid, .drvHi].map Except.ok := by decide
theorem test_decode_sample :
    [0b0001000000000000#16, 0b0001000100000000#16, 0b0001001000000000#16, 0b0001001100000000#16].map decode =
    [Instr.settle, .smpH, .smpL, .ainc].map Except.ok := by decide
theorem test_decode_transmit :
    [0b0010000000000000#16, 0b0010000100000000#16, 0b0010001000000000#16, 0b0010001000000001#16,
     0b0010001000000010#16, 0b0010001100000000#16, 0b0010010000000000#16].map decode =
    [Instr.serInit, .txClaim, .txLoadBanner, .txLoadHex, .txLoadCrlf, .txWaitRdy, .txPush0].map Except.ok := by decide
theorem test_decode_control :
    [0b0011000000000111#16, 0b0011000100010100#16, 0b0011001000000101#16, 0b0011111100000000#16,
     0b0100000000000000#16].map decode =
    [Instr.loopWord 0x07#8, .loopTok 0x14#8, .loopRow 0x05#8, .idle, .txc].map Except.ok := by decide
/-- V11.1 to V11.4, V11.6, V11.7, V11.9, V11.11, V11.12. -/
theorem test_decode_illegal :
    [0x0000#16, 0x0101#16, 0x0500#16, 0x2203#16, 0x3047#16, 0x30C0#16, 0x4000#16, 0x3F01#16, 0xFFFF#16].map
      decodeFetched =
    [.error (.unlistedOpcode 0x00#8), .error (.nonzeroOperand 0x01#8), .error (.unlistedOpcode 0x05#8),
     .error (.selectorRange 0x03#8), .error (.targetRange 0x47#8), .error (.targetRange 0xC0#8),
     .error .handlerInStore, .error (.nonzeroOperand 0x01#8), .error (.unlistedOpcode 0xFF#8)] := by decide
theorem test_table_word : decodeTableWord 16 0x3007 = some (.loopWord 0x07#8) := by decide
/-- R134: the listing form, with a line of R246. -/
theorem test_listing : listingLine 0x11#6 (.loopWord 0x07#8) = "11: 3007  LOOP_WORD 0x07" := by decide
theorem test_assemble :
    assemble [("TOK", 0x14)] "LOOP_TOK" (.label "TOK") = some (.loopTok 0x14#8) ∧
    assemble [] "TX_LOAD" (.selector "HEX") = some .txLoadHex ∧ assemble [] "TXC" .none = none := by decide
/-- The pseudo-operations of R135 compose to the micro-program of R246. -/
theorem test_program_is_its_pseudo_ops : programWords = programOps.map encode := by decide

/-! ### Micro-ops -/

/-- V2.1 and V2.2. -/
theorem test_ceOn : got (exec .ceOn { base with settled := true, upc := 0x05#6 }) (fun t => (t.ce, t.settled, t.upc)) =
    some (true, false, 0x06#6) := by decide
/-- V2.4. -/
theorem test_ceOff : got (exec .ceOff { base with ce := true }) (fun t => (t.ce, t.settled)) = some (false, false) := by
  decide
/-- V2.3. -/
theorem test_oeOn : got (exec .oeOn base) (fun t => (t.oe, t.settled)) = some (true, false) := by decide
/-- V2.5. -/
theorem test_oeOff : got (exec .oeOff { base with oe := true }) (fun t => (t.oe, t.settled)) = some (false, false) := by
  decide
/-- V3.1. -/
theorem test_stbH : got (exec .stbH { base with settled := true }) (fun t => (t.stb, t.stbStale, t.settled)) =
    some (true, false, false) := by decide
/-- V3.2. -/
theorem test_stbL : got (exec .stbL { base with stb := true, stbStale := false })
    (fun t => (t.stb, t.stbStale, t.settled)) = some (false, false, false) := by decide
/-- V1. -/
theorem test_drvLo : got (exec .drvLo { base with addr := 0xABCDE#20 }) (fun t => (t.pinAlo, t.stbStale)) =
    some (0xDE#8, true) := by decide
theorem test_drvMid : got (exec .drvMid { base with addr := 0xABCDE#20 }) (fun t => t.pinAmid) = some 0xBC#8 := by decide
/-- V1: bit 19 is driven (90_conflicts.md C1). -/
theorem test_drvHi : got (exec .drvHi { base with addr := 0x80000#20 }) (fun t => t.pinAhi) = some 0x8#4 := by decide
/-- V4.1, V4.2. -/
theorem test_settle : got (exec .settle base) (fun t => t.settled) = some true := by decide
theorem test_settle_short :
    got (exec .settle { base with params := { inst with tMin := 2 } }) (fun t => t.settled) = some false := by decide
/-- V5.1 and V5.5. -/
theorem test_smpH : got (exec .smpH bus) (fun t => t.capAt 0) = some 0xBE#8 ∧
    got (exec .smpH { bus with stb := false }) (fun t => t.capAt 0) = some 0xEF#8 := by decide
/-- V5.6 to V5.9: a draw. -/
theorem test_smpH_draw : got (exec .smpH { bus with stbStale := true }) (fun t => (t.capAt 0, t.draws)) =
    some (Config.draw 0, 1) := rfl
/-- V5.4. -/
theorem test_smpL : got (exec .smpL { bus with stb := false, word := 15#4 }) (fun t => t.capAt 31) = some 0xEF#8 := by
  decide
/-- V6.2 and V6.3. -/
theorem test_ainc : got (exec .ainc { base with addr := 0xFFFFF#20 }) (fun t => t.addr) = some 0x00000#20 ∧
    got (exec .ainc { base with addr := 0x7FFFF#20 }) (fun t => t.addr) = some 0x80000#20 := by decide
/-- V7.1. -/
theorem test_serInit : got (exec .serInit base) (fun t => (t.serOn, t.ready, t.upc)) = some (true, false, 0x01#6) := by
  decide
/-- V7.3 and V7.4. -/
theorem test_txClaim_spins : got (exec .txClaim { base with busy := true, upc := 0x14#6 })
    (fun t => (t.upc, t.im)) = some (0x14#6, false) := by decide
theorem test_txClaim_passes : got (exec .txClaim { base with upc := 0x14#6 }) (fun t => (t.upc, t.busy)) =
    some (0x15#6, false) := by decide
/-- V7.5, V7.12: the banner fits 11 exactly. -/
theorem test_txLoadBanner : got (exec .txLoadBanner base)
    (fun t => ((List.range 11).map t.txAt, t.pending, t.cursor, t.busy)) =
    some ([0x0D#8, 0x0A#8, 0x52#8, 0x65#8, 0x61#8, 0x64#8, 0x79#8, 0x0D#8, 0x0A#8, 0x0D#8, 0x0A#8], 10, 1, true) := by
  decide
/-- V7.11. -/
theorem test_txLoadBanner_overflows : got (exec .txLoadBanner { base with params := { inst with txbufCap := 10 } })
    (fun t => (t.fault, t.busy)) = some (some (.msgOverflow 0x00#6 11), false) := by decide
/-- V7.6: the units beyond the message stay. -/
theorem test_txLoadHex : got (exec .txLoadHex { base with
      tok := 3#5, cap := (Vector.replicate 32 0x00#8).set 3 0x5A#8, txbuf := [(0, 0x0D#8), (2, 0x52#8)] })
    (fun t => ((List.range 3).map t.txAt, t.pending)) = some ([0x35#8, 0x61#8, 0x52#8], 1) := by decide
/-- V7.10. -/
theorem test_txLoadCrlf_busy : got (exec .txLoadCrlf { base with busy := true, upc := 0x02#6 })
    (fun t => (t.fault, t.upc)) = some (some (.loadWhileBusy 0x02#6), 0x02#6) := by decide
/-- V7.9. -/
theorem test_txLoadCrlf : got (exec .txLoadCrlf base) (fun t => (t.txAt 0, t.txAt 1, t.pending, t.cursor, t.busy)) =
    some (0x0D#8, 0x0A#8, 1, 1, true) := by decide
/-- V7.14 and V7.15. -/
theorem test_txWaitRdy : got (exec .txWaitRdy { base with upc := 0x03#6 }) (fun t => t.upc) = some 0x03#6 ∧
    got (exec .txWaitRdy { base with ready := true, upc := 0x03#6 }) (fun t => t.upc) = some 0x04#6 := by decide
/-- V7.16. -/
theorem test_txPush0 : got (exec .txPush0 tx) (fun t => (t.inflight, t.ready, t.pending, t.cursor)) =
    some (some 0x0D#8, false, 1, 1) := by decide
/-- V7.17 and V7.19. -/
theorem test_txPush0_faults :
    got (exec .txPush0 { tx with ready := false }) (fun t => t.fault) = some (some (.txOverrun .seq 0x0D#8)) ∧
    got (exec .txPush0 base) (fun t => t.fault) = some (some (.pushWithoutLoad 0x00#6)) := by decide
/-- V8.1 and V8.2. -/
theorem test_txc : got (exec .txc tx) (fun t => (t.tcPend, t.inflight, t.ready, t.cursor, t.pending, t.busy)) =
      some (false, some 0x0A#8, false, 2, 0, true) ∧
    got (exec .txc { tx with pending := 0 }) (fun t => (t.tcPend, t.busy, t.inflight)) = some (false, false, none) := by
  decide
/-- V8.4 and V8.5. -/
theorem test_txc_faults :
    got (exec .txc { tx with cursor := 11 }) (fun t => (t.fault, t.tcPend)) = some (some (.cursorRange 11), true) ∧
    got (exec .txc { tx with ready := false }) (fun t => t.fault) = some (some (.txOverrun .txc 0x0A#8)) := by decide
/-- V10.2 and V10.3. -/
theorem test_loopWord : got (exec (.loopWord 0x07#8) { base with word := 14#4, upc := 0x11#6 })
      (fun t => (t.word, t.upc)) = some (15#4, 0x07#6) ∧
    got (exec (.loopWord 0x07#8) { base with word := 15#4, upc := 0x11#6 }) (fun t => (t.word, t.upc)) =
      some (0#4, 0x12#6) := by decide
/-- V10.12: `upc + 1` wraps. -/
theorem test_loopWord_wraps : got (exec (.loopWord 0x00#8) { base with word := 15#4, upc := 0x3F#6 })
    (fun t => t.upc) = some 0x00#6 := by decide
/-- V10.4 and V10.5. -/
theorem test_loopTok : got (exec (.loopTok 0x14#8) { base with upc := 0x18#6 }) (fun t => (t.tok, t.upc)) =
      some (1#5, 0x14#6) ∧
    got (exec (.loopTok 0x14#8) { base with tok := 31#5, upc := 0x18#6 }) (fun t => (t.tok, t.upc)) =
      some (0#5, 0x19#6) := by decide
/-- V10.7 and V10.8. -/
theorem test_loopRow : got (exec (.loopRow 0x05#8) { base with row := 65534#16 }) (fun t => (t.row, t.upc)) =
      some (65535#16, 0x05#6) ∧
    got (exec (.loopRow 0x05#8) { base with row := 65535#16, upc := 0x1D#6 }) (fun t => (t.row, t.upc)) =
      some (0#16, 0x1E#6) := by decide
/-- V10.9: a test instance with one row exits at once. -/
theorem test_loopRow_one : got (exec (.loopRow 0x05#8) { base with upc := 0x1D#6, params := { inst with numRows := 1 } })
    (fun t => (t.row, t.upc)) = some (0#16, 0x1E#6) := by decide
/-- V10.10. -/
theorem test_idle : exec .idle { base with upc := 0x1E#6 } = .next { base with upc := 0x1E#6 } := rfl

/-! ### Agents and steps -/

/-- V9.1 and V9.4. -/
theorem test_ser : got (serStep { base with serOn := true }) (fun t => t.ready) = some true ∧
    got (serStep { base with inflight := some 0x0D#8 }) (fun t => (t.line, t.inflight, t.ready, t.tcPend)) =
      some ([0x0D#8], none, true, true) := by decide
/-- V9.5. -/
theorem test_ser_lost : got (serStep { base with inflight := some 0x0A#8, tcPend := true })
    (fun t => (t.fault, t.line)) = some (some (.tcLost 0x0A#8), []) := by decide
/-- V9.2, V9.3, V9.6, V8.6. -/
theorem test_not_enabled :
    base.enabled .ser = false ∧ State.enabled { base with serOn := true, ready := true } .ser = false ∧
    base.enabled .txc = false := by decide
/-- V12.1: nothing is enabled once a fault is marked. -/
theorem test_fault_sticky :
    let s := { tx with fault := some (.loadWhileBusy 0x03#6), inflight := some 0x0D#8 }
    s.enabled .seq = false ∧ s.enabled .txc = false ∧ s.enabled .ser = false := by decide
/-- The first step after reset is SER_INIT (70_reset_and_hazards.md R325). -/
theorem test_first_step : got (step State.reset) (fun t => (t.serOn, t.upc)) = some (true, 0x01#6) := by decide
/-- P7: an empty control-store word faults. -/
theorem test_illegal_step : got (step { base with upc := 0x1F#6 }) (fun t => (t.fault, t.upc)) =
    some (some (.illegalUop 0x1F#6 0x0000#16), 0x1F#6) := by decide
/-- A placed word runs next, and so does a placed handler invocation. -/
theorem test_placed : got (step (State.reset.withFetchWord 16 0x1300)) (fun t => t.addr) = some 0x00001#20 ∧
    got (step (State.reset.withFetchWord 16 0x4000)) (fun t => (t.tcPend, t.busy, t.upc)) =
      some (false, false, 0x00#6) := by decide

/-! ### States and operands that meet the hypotheses of the statements -/

theorem test_witness_FetchRejects :
    (∃ e, decodeFetched (State.fetchWord { base with upc := 0x1F#6 }) = .error e) ∧ 0x1F ≤ (0x1F#6 : Index).toNat ∧
    0x1F ≤ (0x3F#6 : Index).toNat := ⟨⟨.unlistedOpcode 0x00#8, by decide⟩, by decide, by decide⟩
theorem test_witness_StepRuns :
    (base.fault = none ∧ base.mover = .seq ∧ decodeFetched base.fetchWord = .ok .serInit) ∧
    (tx.fault = none ∧ State.mover { tx with turn := .txc } = .txc) ∧
    State.mover { base with serOn := true, turn := .ser } = .ser := by decide
theorem test_witness_PlacedWord :
    Instr.WellFormed .txc ∧ Instr.WellFormed (.loopRow 0x3F#8) := ⟨trivial, by show IsTarget _; decide⟩
theorem test_witness_AnyEnabledAgent :
    tx.fault = none ∧ tx.enabled .txc = true ∧ tx.enabled .seq = true ∧
    State.enabled { base with serOn := true } .ser = true ∧
    State.enabled { base with inflight := some 0x0D#8 } .ser = true := by decide
theorem test_witness_FaultsStick :
    (∃ t, agentStep .seq { base with upc := 0x04#6 } = .next t ∧ t.fault ≠ none) ∧
    (∃ t, agentStep .txc { tx with ready := false } = .next t ∧ t.fault ≠ none) ∧
    (∃ t, agentStep .ser { tx with inflight := some 0x0D#8 } = .next t ∧ t.fault ≠ none) ∧
    (State.markFault base (.tcLost 0x00#8)).fault = some (.tcLost 0x00#8) :=
  ⟨⟨_, rfl, by decide⟩, ⟨_, rfl, by decide⟩, ⟨_, rfl, by decide⟩, rfl⟩
theorem test_witness_StepAnswers : base.fault = none := rfl
theorem test_witness_ChipControl :
    bus.ce = true ∧ bus.oe = true ∧ base.ce = false ∧ base.oe = false := by decide
theorem test_witness_AddressSplit : [Instr.drvHi, .drvLo, .drvMid].Perm [.drvLo, .drvMid, .drvHi] := by decide
theorem test_witness_Settle :
    base.params.tMin ≤ base.params.tSettle ∧
    (let p : Params := { inst with tMin := 2 }; p.tSettle < p.tMin) := by decide
theorem test_witness_Sample :
    (bus.ce = true ∧ bus.oe = true ∧ bus.settled = true ∧ bus.stbStale = false) ∧ base.ce = false ∧
    base.stbStale = true ∧ base.settled = false := by decide
theorem test_witness_ReadWord : bus.ce = true ∧ bus.oe = true ∧ bus.params.tMin ≤ bus.params.tSettle := by decide
theorem test_witness_exec : (∃ t, exec .drvLo base = .next t) ∧ (∃ t, exec .settle base = .next t) ∧
    (∃ t, exec .txc tx = .next t) ∧ (∃ t, exec .txClaim base = .next t) := ⟨⟨_, rfl⟩, ⟨_, rfl⟩, ⟨_, rfl⟩, ⟨_, rfl⟩⟩
theorem test_witness_ShortMargin :
    let s : State := { base with params := { inst with tMin := 2 } }
    s.params.tSettle < s.params.tMin ∧ s.settled = false ∧ ∃ t, step s = .next t :=
  ⟨by decide, rfl, _, rfl⟩
theorem test_witness_Claim : tx.busy = true ∧ base.busy = false := by decide
theorem test_witness_Load :
    (Instr.txLoadBanner, bannerMessage) ∈ [(Instr.txLoadBanner, bannerMessage),
      (Instr.txLoadHex, hexToken (base.capAt (tokIndex base.tok))), (Instr.txLoadCrlf, crlfMessage)] ∧
    tx.busy = true ∧ base.busy = false ∧ bannerMessage.length ≤ base.params.txbufCap ∧
    (let p : Params := { inst with txbufCap := 10 }; p.txbufCap < bannerMessage.length) := by decide
theorem test_witness_Wait : tx.ready = true ∧ base.ready = false ∧ base.serOn = false ∧ base.inflight = none ∧
    got (step base) (fun t => t.ready) = some false := by decide
theorem test_witness_Counters : tx.pending < tx.params.txbufCap ∧ tx.cursor ≤ tx.params.txbufCap ∧
    (let s := { tx with pending := 10, cursor := 11 };
      s.pending < s.params.txbufCap ∧ s.cursor ≤ s.params.txbufCap ∧ (got (step s) (fun _ => true)).isSome) := by decide
theorem test_witness_Push : base.busy = false ∧ (tx.busy = true ∧ tx.ready = true ∧ tx.inflight = none) ∧
    (let s := { tx with ready := false }; s.busy = true ∧ (s.ready = false ∨ s.inflight ≠ none)) := by decide
theorem test_witness_Handler :
    base.pending = 0 ∧ (0 < tx.pending ∧ tx.cursor < tx.params.txbufCap ∧ tx.ready = true ∧ tx.inflight = none) ∧
    (let s := { tx with cursor := 11 }; 0 < s.pending ∧ s.params.txbufCap ≤ s.cursor) ∧
    (let s := { tx with cursor := 10, inflight := some 0x00#8 };
      s.cursor < s.params.txbufCap ∧ (s.ready = false ∨ s.inflight ≠ none)) := by decide
theorem test_witness_Transmitter :
    base.inflight = none ∧ (let s := { tx with inflight := some 0x0D#8 }; s.inflight = some 0x0D#8 ∧ s.tcPend = true) ∧
    (let s := { base with inflight := some 0x0D#8 }; s.inflight = some 0x0D#8 ∧ s.tcPend = false) := by decide
theorem test_witness_Hex : (9#4 : BitVec 4).toNat ≤ 9 ∧ 10 ≤ (10#4 : BitVec 4).toNat := by decide
theorem test_witness_Loops :
    (15#4 : BitVec 4).toNat = 15 ∧ (14#4 : BitVec 4).toNat ≠ 15 ∧ (31#5 : BitVec 5).toNat = 31 ∧
    (30#5 : BitVec 5).toNat ≠ 31 ∧ (65535#16 : BitVec 16).toNat + 1 = inst.numRows ∧
    (65534#16 : BitVec 16).toNat + 1 ≠ inst.numRows := by decide
theorem test_witness_step : ∃ t, step base = .next t := ⟨_, rfl⟩
theorem test_witness_MemoryStays : tx.memWf = true ∧ ∃ t, step tx = .next t := ⟨by decide, _, rfl⟩
theorem test_witness_CanonicalMemories :
    Memory.wf txDefault 11 [(0, 0x0D#8), (10, 0x0A#8)] = true ∧ Memory.wf txDefault 11 [(11, 0x0A#8)] = false ∧
    Memory.wf txDefault 11 [(1, 0x00#8)] = false ∧ Memory.wf txDefault 11 [(2, 0x01#8), (1, 0x01#8)] = false := by decide
theorem test_witness_LineGrows :
    let s := { base with inflight := some 0x0D#8, turn := .ser }
    s.mover = .ser ∧ got (step s) (fun t => t.line) = some [0x0D#8] := by decide
theorem test_witness_Busy :
    (let s := { base with upc := 0x02#6 }; s.busy = false ∧ got (step s) (fun t => t.busy) = some true) ∧
    (let s := { tx with pending := 0, turn := .txc }; s.busy = true ∧ got (step s) (fun t => t.busy) = some false) := by
  decide
theorem test_witness_Notification :
    (let s := { base with inflight := some 0x0D#8, turn := .ser };
      s.tcPend = false ∧ got (step s) (fun t => t.tcPend) = some true) ∧
    (let s := { tx with turn := .txc }; s.tcPend = true ∧ got (step s) (fun t => t.tcPend) = some false) ∧
    (Instr.ceOn ≠ .txc ∧ ∃ t, exec .ceOn base = .next t) :=
  ⟨by decide, by decide, by decide, _, rfl⟩
theorem test_witness_HandlerStep : State.mover { tx with turn := .txc } = .txc ∧
    ∃ t, step { tx with turn := .txc } = .next t := ⟨by decide, _, rfl⟩
theorem test_witness_Commutes :
    Instr.smpH ∉ [Instr.txClaim, .txLoadBanner, .txLoadHex, .txLoadCrlf, .txWaitRdy, .txPush0] := by decide
theorem test_witness_Mask : base.im = false ∧ ∃ t, step base = .next t := ⟨rfl, _, rfl⟩
theorem test_witness_Ended : let s := { base with upc := 0x1E#6, ready := true }
    s.cs = [] ∧ s.Ended ∧ s.ready = true := ⟨rfl, ⟨rfl, rfl, rfl, rfl, rfl⟩, rfl⟩
theorem test_witness_Drain :
    (tx.pending = 1 ∧ tx.tcPend = true ∧ tx.ready = true ∧ tx.inflight = none ∧ tx.cursor + 1 ≤ tx.params.txbufCap) ∧
    (let s := { tx with pending := 10 }; s.cursor + 10 ≤ s.params.txbufCap) := by decide
theorem test_witness_Legal : inst.Legal ∧ ({ inst with numRows := 1 } : Params).Legal := by decide

theorem test_witness_Fixed : base.Fixed := ⟨rfl, rfl, by decide, by decide⟩
theorem test_witness_Pipeline : base.Pipeline := by constructor <;> decide
/-- The clauses of a busy buffer: a token half sent, and the banner loaded but not started. -/
theorem test_witness_Pipeline_busy : State.Pipeline { tx with upc := 0x18#6 } ∧ State.Pipeline { tx with
    upc := 0x04#6, pending := 10, tcPend := false } := ⟨by constructor <;> decide, by constructor <;> decide⟩
/-- R170 (d) and (f): no token has ten units pending, and no banner one. -/
theorem test_pipeline_refuses : ¬ State.Pipeline { tx with upc := 0x18#6, pending := 10 } ∧
    ¬ State.Pipeline { tx with upc := 0x04#6, pending := 1, tcPend := false } :=
  ⟨fun h => absurd (h.counts rfl).1 (by decide), fun h => absurd (h.beforePush (by decide)).2.2.1 (by decide)⟩
theorem test_witness_Walk : base.Walk := by
  constructor
  case bytes => exact fun _ _ h => absurd h (Nat.not_lt_zero _)
  all_goals decide
theorem test_witness_Output : base.Output ∧ base.params.tMin ≤ base.params.tSettle := ⟨rfl, by decide⟩

/-- The state an instance of one row ends in, as far as the statements look. -/
def done : State :=
  { base with upc := 0x1E#6, addr := 0x00010#20, serOn := true, ready := true, cursor := 2,
              line := base.stream 1, params := { inst with numRows := 1 } }
theorem test_witness_ended_Fixed : done.Fixed := ⟨rfl, rfl, by decide, by decide⟩
theorem test_witness_ended_Pipeline : done.Pipeline := by constructor <;> decide
theorem test_witness_ended_Walk : done.Walk := by
  constructor
  case bytes => exact fun _ _ h => absurd h (Nat.not_lt_zero _)
  all_goals decide
theorem test_witness_ended_Output : done.Output ∧ done.Ended := ⟨List.append_nil _, rfl, rfl, rfl, rfl, rfl⟩

/-! ### Fairness and stuck runs -/

/-- R292 (F1), (F2): a handler and a sequencer that can wait no longer move, whoever has the turn. -/
theorem test_due : State.mover { tx with txcWait := 0, turn := .ser, inflight := some 0x0D#8 } = .txc ∧
    State.mover { tx with seqWait := 0, turn := .txc } = .seq := by decide
theorem test_witness_Fair : tx.enabled .txc = true ∧ tx.enabled .seq = true ∧ tx.txcWait = 1 := by decide
/-- TX_WAIT_RDY before SER_INIT (R165): nothing can move it on. -/
def unready : State := { base with upc := 0x03#6 }
theorem test_witness_Spinning : unready.Spinning := ⟨rfl, fun h => absurd h.1 (by decide), rfl, rfl⟩
/-- Its run changes only the schedule's own fields. -/
theorem test_unready_trace (n : Nat) : ∃ t, unready.trace n = unready.withSchedule t := by
  induction n with
  | zero => exact ⟨unready, rfl⟩
  | succ n ih =>
    obtain ⟨t, e⟩ := ih
    have hd : decodeFetched unready.fetchWord = .ok .txWaitRdy := by decide
    have hw : seqStep (unready.withSchedule t) = .next (unready.withSchedule t) :=
      seqStep_next.2 (.inl ⟨_, hd, execTxWaitRdy_next.2 (.inr ⟨rfl, rfl⟩)⟩)
    have hs := State.after_spin rfl (State.mover_of_others_off rfl rfl) hw
    exact ⟨(unready.withSchedule t).passTurn .seq, (congrArg State.after e).trans (hs.trans rfl)⟩
theorem test_witness_Stuck : unready.Stuck ∧ SerLive unready.trace := by
  refine ⟨⟨test_witness_Spinning, fun n => ?_⟩, fun n => ⟨n, le_refl n, .inl ?_⟩⟩
  all_goals obtain ⟨t, e⟩ := test_unready_trace n
  · rw [e, State.mover_of_others_off rfl rfl]
    decide
  · rw [e]
    rfl
/-- A spin at TX_CLAIM with a unit in flight: the transmitter has a step and has not the turn (R298). -/
theorem test_witness_Spinning_live : let s := { base with upc := 0x14#6, busy := true, inflight := some 0x0D#8 }
    s.Spinning ∧ s.enabled .ser = true ∧ ∀ k, k < 1 → (s.trace k).mover ≠ .ser := by
  refine ⟨⟨rfl, fun h => absurd h.1 (by decide), rfl, rfl⟩, rfl, fun k h => ?_⟩
  obtain rfl : k = 0 := by omega
  decide

end Sys2Proof.Tests
end

section
/-!
The scope family: which agent takes the next step (00_scope.md section 6, R17, R291).
-/
namespace Sys2Proof.Machine
variable {s : State}

/-- What the three agents' enabling conditions read does not include the schedule's own fields. -/
theorem State.enabled_withSchedule (s t : State) (a : Agent) : (s.withSchedule t).enabled a = s.enabled a := by
  cases a <;> rfl

/-- A handler that can still be kept waiting is not due. -/
theorem State.txcDue_eq_false_of_wait (h : 0 < s.txcWait) : s.txcDue = false := by
  simp [State.txcDue, h.ne']

/-- While both bounds on waiting have steps left, an enabled agent that has the turn moves. -/
theorem State.mover_eq_turn (ht : 0 < s.txcWait) (hs : 0 < s.seqWait) (he : s.enabled s.turn = true) :
    s.mover = s.turn := by
  have hdue : s.txcDue = false := State.txcDue_eq_false_of_wait ht
  by_cases hseq : s.turn = .seq
  · simp [State.mover, hdue, hseq]
  · simp [State.mover, hdue, hseq, hs.ne', he]

/-- While no fault is marked, the agent that moves is enabled. -/
theorem State.enabled_mover (hf : s.fault = none) : s.enabled s.mover = true := by
  rcases s.mover_cases with hm | ⟨hm, he⟩ | ⟨hm, he⟩ <;> rw [hm]
  · exact Option.isNone_iff_eq_none.2 hf
  · exact he
  · exact he

/-- Settles O7: the agent at the turn moves, since the schedule's own fields do not bear on what is enabled; and the
mover is always enabled. -/
theorem anyEnabledAgentMayMove : Obligations.AnyEnabledAgentMayMove := by
  intro s hf
  refine ⟨fun a m n he hm hn => ?_, State.enabled_mover hf⟩
  have he' : (s.withSchedule { s with turn := a, txcWait := m, seqWait := n }).enabled a = true :=
    (State.enabled_withSchedule s _ a).trans he
  exact State.mover_eq_turn hm hn he'

end Sys2Proof.Machine
end


section
/-!
The state family: which micro-op and which agent writes each piece of state, and what every step keeps
(10_state.md R50 to R68).
-/
namespace Sys2Proof.Machine
variable {i : Instr} {s t : State}

/-! ### What a micro-op may write (10_state.md R64) -/

/-- `t` differs from `s` only in what the access map lists `i` as a writer of; `upc` is listed for every micro-op but
TXC. -/
structure WritesAsListed (i : Instr) (s t : State) : Prop where
  addr : t.addr = s.addr ∨ i = .ainc
  row : t.row = s.row ∨ ∃ m, i = .loopRow m
  word : t.word = s.word ∨ ∃ m, i = .loopWord m
  tok : t.tok = s.tok ∨ ∃ m, i = .loopTok m
  cap : t.cap = s.cap ∨ i ∈ [Instr.smpH, .smpL]
  ce : t.ce = s.ce ∨ i ∈ [Instr.ceOn, .ceOff]
  oe : t.oe = s.oe ∨ i ∈ [Instr.oeOn, .oeOff]
  stb : t.stb = s.stb ∨ i ∈ [Instr.stbH, .stbL]
  pinAlo : t.pinAlo = s.pinAlo ∨ i = .drvLo
  pinAmid : t.pinAmid = s.pinAmid ∨ i = .drvMid
  pinAhi : t.pinAhi = s.pinAhi ∨ i = .drvHi
  settled : t.settled = s.settled ∨
    i ∈ [Instr.ceOn, .ceOff, .oeOn, .oeOff, .stbH, .stbL, .drvLo, .drvMid, .drvHi, .settle]
  stbStale : t.stbStale = s.stbStale ∨ i ∈ [Instr.stbH, .stbL, .drvLo, .drvMid, .drvHi]
  txbuf : t.txbuf = s.txbuf ∨ i ∈ [Instr.txLoadBanner, .txLoadHex, .txLoadCrlf]
  counters : t.pending = s.pending ∧ t.cursor = s.cursor ∨
    i ∈ [Instr.txLoadBanner, .txLoadHex, .txLoadCrlf, .txc]
  busy : t.busy = s.busy ∨ i ∈ [Instr.txLoadBanner, .txLoadHex, .txLoadCrlf, .txc]
  im : t.im = s.im ∨ i = .txClaim
  serOn : t.serOn = s.serOn ∨ i = .serInit
  transmitter : t.ready = s.ready ∧ t.inflight = s.inflight ∨ i ∈ [Instr.txPush0, .txc]
  tcPend : t.tcPend = s.tcPend ∨ i = .txc
  line : t.line = s.line
  upc : i = .txc → t.upc = s.upc
  cs : t.cs = s.cs
  rom : t.rom = s.rom
  params : t.params = s.params
  fault : t.fault = s.fault ∨ i ∈ [Instr.txLoadBanner, .txLoadHex, .txLoadCrlf, .txPush0, .txc]
  draws : t.draws = s.draws ∨ i ∈ [Instr.smpH, .smpL]
  turn : t.turn = s.turn
  clock : t.clock = s.clock
  txcWait : t.txcWait = s.txcWait
  seqWait : t.seqWait = s.seqWait

/-- A TX_LOAD is the load of the message its selector names. -/
theorem exec_of_mem_loads (hi : i ∈ [Instr.txLoadBanner, .txLoadHex, .txLoadCrlf]) (s : State) :
    ∃ sel, exec i s = loadMessage (s.message sel) s := by
  simp only [List.mem_cons, List.not_mem_nil, or_false] at hi
  rcases hi with rfl | rfl | rfl
  · exact ⟨.banner, rfl⟩
  · exact ⟨.hex, rfl⟩
  · exact ⟨.crlf, rfl⟩

/-- The writers of the counters and of `BUSY` are the three loads and the handler. -/
theorem mem_loads_or_eq_txc (hi : i ∈ [Instr.txLoadBanner, .txLoadHex, .txLoadCrlf, .txc]) :
    i ∈ [Instr.txLoadBanner, .txLoadHex, .txLoadCrlf] ∨ i = .txc := by
  simpa [or_assoc] using hi

/-- Every micro-op, and the handler's action, writes only what the access map lists for it. -/
theorem exec_writesAsListed (h : exec i s = .next t) : WritesAsListed i s t := by
  cases i
  case txClaim => rcases execTxClaim_next.1 h with ⟨-, rfl⟩ | ⟨-, rfl⟩ <;> constructor <;> simp
  case txLoadBanner | txLoadHex | txLoadCrlf =>
    rcases loadMessage_next.1 h with ⟨-, rfl⟩ | ⟨-, -, rfl⟩ | ⟨-, -, rfl⟩ <;> constructor <;> simp
  case txWaitRdy => rcases execTxWaitRdy_next.1 h with ⟨-, rfl⟩ | ⟨-, rfl⟩ <;> constructor <;> simp
  case txPush0 =>
    rcases execTxPush0_next.1 h with ⟨-, rfl⟩ | ⟨-, hpush⟩
    · constructor <;> simp
    · rcases serPush_next.1 hpush with ⟨-, -, rfl⟩ | ⟨-, rfl⟩ <;> constructor <;> simp
  case loopWord => rcases execLoopWord_next.1 h with ⟨-, rfl⟩ | ⟨-, rfl⟩ <;> constructor <;> simp
  case loopTok => rcases execLoopTok_next.1 h with ⟨-, rfl⟩ | ⟨-, rfl⟩ <;> constructor <;> simp
  case loopRow => rcases execLoopRow_next.1 h with ⟨-, rfl⟩ | ⟨-, rfl⟩ <;> constructor <;> simp
  case txc =>
    rcases execTxc_next.1 h with ⟨-, -, rfl⟩ | ⟨-, -, hpush⟩ | ⟨-, rfl⟩
    · constructor <;> simp
    · rcases serPush_next.1 hpush with ⟨-, -, rfl⟩ | ⟨-, rfl⟩ <;> constructor <;> simp
    · constructor <;> simp
  case smpH | smpL =>
    obtain rfl := next_eq.1 h
    constructor <;> simp [State.capture]
  all_goals
    obtain rfl := next_eq.1 h
    constructor <;> simp

/-- Settles O39: the access map field by field; the buffer's content is that of its listing. -/
theorem onlyTheListedMicroOpsWrite : Obligations.OnlyTheListedMicroOpsWrite := by
  intro i s t h
  have w := exec_writesAsListed h
  have htx : (∀ k, t.txAt k = s.txAt k) ∨ i ∈ [Instr.txLoadBanner, .txLoadHex, .txLoadCrlf] :=
    w.txbuf.imp_left fun e k => by rw [State.txAt, State.txAt, e]
  exact ⟨w.addr, w.row, w.word, w.tok, w.cap, w.ce, w.oe, w.stb, w.pinAlo, w.pinAmid, w.pinAhi, w.settled, w.stbStale,
    htx, w.counters, w.busy, w.im, w.serOn, w.transmitter, w.tcPend, w.line, w.upc, w.cs, w.rom, w.params, w.fault,
    w.draws, w.turn, w.clock, w.txcWait, w.seqWait⟩

/-! ### The hidden bus bits (10_state.md R50, R68) -/

/-- Every pin write clears `SETTLED` (41_bus_read.md R200). -/
theorem exec_pinWrite_settled
    (hi : i ∈ [Instr.ceOn, .ceOff, .oeOn, .oeOff, .stbH, .stbL, .drvLo, .drvMid, .drvHi])
    (h : exec i s = .next t) : t.settled = false := by
  simp only [List.mem_cons, List.not_mem_nil, or_false] at hi
  rcases hi with rfl | rfl | rfl | rfl | rfl | rfl | rfl | rfl | rfl <;> obtain rfl := next_eq.1 h <;> rfl

/-- A strobe write makes the strobe fresh. -/
theorem exec_strobeWrite_stbStale (hi : i ∈ [Instr.stbH, .stbL]) (h : exec i s = .next t) : t.stbStale = false := by
  simp only [List.mem_cons, List.not_mem_nil, or_false] at hi
  rcases hi with rfl | rfl <;> obtain rfl := next_eq.1 h <;> rfl

/-- An address-pin write makes the strobe stale. -/
theorem exec_addressWrite_stbStale (hi : i ∈ [Instr.drvLo, .drvMid, .drvHi]) (h : exec i s = .next t) :
    t.stbStale = true := by
  simp only [List.mem_cons, List.not_mem_nil, or_false] at hi
  rcases hi with rfl | rfl | rfl <;> obtain rfl := next_eq.1 h <;> rfl

/-- Settles O19: the values by the three kinds of pin write, the rest by the access map. -/
theorem hiddenBusBitsWriters : Obligations.HiddenBusBitsWriters := by
  intro i s t h
  have w := exec_writesAsListed h
  exact ⟨fun hi => exec_pinWrite_settled hi h, w.settled.resolve_right, fun hi => exec_strobeWrite_stbStale hi h,
    fun hi => exec_addressWrite_stbStale hi h, w.stbStale.resolve_right⟩

/-! ### What a step may write -/

/-- All a step can write before the turn passes: a fault mark, what a fetched micro-op or the handler's action writes,
the shift of the unit in flight, or `READY`. -/
theorem step_writes (h : step s = .next t) :
    ∃ u, t = u.passTurn s.mover ∧
      ((∃ r, u = s.markFault r) ∨
       (s.mover = .seq ∧ ∃ i, decodeFetched s.fetchWord = .ok i ∧ exec i s = .next u) ∨
       (s.mover = .txc ∧ exec .txc s = .next u) ∨
       (s.mover = .ser ∧ ∃ b, s.inflight = some b ∧ u = s.shiftOut b) ∨
       (s.mover = .ser ∧ u = s.raiseReady)) := by
  obtain ⟨-, u, ht, ⟨hm, hseq⟩ | ⟨hm, -, -, htxc⟩ | ⟨hm, -, hser⟩⟩ := step_next h
  · rcases seqStep_next.1 hseq with ⟨i, hi, he⟩ | ⟨-, -, hu⟩
    · exact ⟨u, ht, .inr (.inl ⟨hm, i, hi, he⟩)⟩
    · exact ⟨u, ht, .inl ⟨_, hu⟩⟩
  · exact ⟨u, ht, .inr (.inr (.inl ⟨hm, htxc⟩))⟩
  · rcases serStep_next.1 hser with ⟨b, -, -, hu⟩ | ⟨b, hb, -, hu⟩ | ⟨-, hu⟩
    · exact ⟨u, ht, .inl ⟨_, hu⟩⟩
    · exact ⟨u, ht, .inr (.inr (.inr (.inl ⟨hm, b, hb, hu⟩)))⟩
    · exact ⟨u, ht, .inr (.inr (.inr (.inr ⟨hm, hu⟩)))⟩

/-- A property that passing the turn does not touch holds after every step, if every kind of write gives it. -/
theorem step_keeps {P : State → Prop} (hturn : ∀ u m, P u → P (u.passTurn m)) (hfault : ∀ r, P (s.markFault r))
    (hexec : ∀ i u, exec i s = .next u → P u) (hshift : ∀ b, P (s.shiftOut b)) (hready : P s.raiseReady)
    (h : step s = .next t) : P t := by
  obtain ⟨u, rfl, hu⟩ := step_writes h
  apply hturn
  rcases hu with ⟨r, rfl⟩ | ⟨-, i, -, he⟩ | ⟨-, he⟩ | ⟨-, b, -, rfl⟩ | ⟨-, rfl⟩
  · exact hfault r
  · exact hexec i u he
  · exact hexec .txc u he
  · exact hshift b
  · exact hready

/-- Settles O40: a micro-op and the handler leave `LINE`, and of the transmitter's two steps only the shift appends. -/
theorem lineGrowsOnlyByShifts : Obligations.LineGrowsOnlyByShifts := by
  intro s t h
  obtain ⟨u, rfl, ⟨r, rfl⟩ | ⟨-, i, -, he⟩ | ⟨-, he⟩ | ⟨hm, b, hb, rfl⟩ | ⟨-, rfl⟩⟩ := step_writes h
  · exact .inl rfl
  · exact .inl (exec_writesAsListed he).line
  · exact .inl (exec_writesAsListed he).line
  · exact .inr ⟨hm, b, hb, rfl, rfl⟩
  · exact .inl rfl

/-! ### The mask (10_state.md R55) -/

/-- TX_CLAIM leaves the mask open, whatever it was. -/
theorem exec_txClaim_im (h : exec .txClaim s = .next t) : t.im = false := by
  rcases execTxClaim_next.1 h with ⟨-, rfl⟩ | ⟨-, rfl⟩ <;> rfl

/-- Every micro-op keeps an open mask open. -/
theorem exec_im (hs : s.im = false) (h : exec i s = .next t) : t.im = false := by
  rcases (exec_writesAsListed h).im with him | rfl
  · exact him.trans hs
  · exact exec_txClaim_im h

/-- Settles O45: only TX_CLAIM writes the mask, and it leaves it open. -/
theorem maskIsOpenBetweenSteps : Obligations.MaskIsOpenBetweenSteps := by
  refine ⟨fun s t hs => ?_, fun s t => exec_txClaim_im⟩
  exact step_keeps (P := fun u => u.im = false) (fun _ _ hu => hu) (fun _ => hs) (fun _ _ => exec_im hs) (fun _ => hs) hs

/-! ### The counters (10_state.md R53, R54) -/

/-- `PENDING` is below the capacity and `CURSOR` not above it. -/
def State.CountersInRange (s : State) : Prop := s.pending < s.params.txbufCap ∧ s.cursor ≤ s.params.txbufCap

/-- The range looks at the two counters and the parameters only. -/
theorem State.CountersInRange.congr (hs : s.CountersInRange) (hp : t.pending = s.pending) (hc : t.cursor = s.cursor)
    (hcap : t.params = s.params) : t.CountersInRange := by
  rwa [State.CountersInRange, hp, hc, hcap]

/-- The load of a non-empty message, which must fit, sets the counters inside their ranges. -/
theorem loadMessage_countersInRange {m : List Byte} (hm : 0 < m.length) (hs : s.CountersInRange)
    (h : loadMessage m s = .next t) : t.CountersInRange := by
  rcases loadMessage_next.1 h with ⟨-, rfl⟩ | ⟨-, -, rfl⟩ | ⟨-, hfit, rfl⟩
  · exact hs
  · exact hs
  · exact ⟨show m.length - 1 < s.params.txbufCap by omega, show 1 ≤ s.params.txbufCap by omega⟩

/-- A handler invocation counts a unit off only while the cursor is below the capacity. -/
theorem execTxc_countersInRange (hs : s.CountersInRange) (h : execTxc s = .next t) : t.CountersInRange := by
  obtain ⟨hpending, hcursor⟩ := hs
  rcases execTxc_next.1 h with ⟨-, -, rfl⟩ | ⟨-, hlt, hpush⟩ | ⟨-, rfl⟩
  · exact ⟨hpending, hcursor⟩
  · rcases serPush_next.1 hpush with ⟨-, -, rfl⟩ | ⟨-, rfl⟩
    · exact ⟨show s.pending - 1 < s.params.txbufCap by omega, show s.cursor + 1 ≤ s.params.txbufCap from hlt⟩
    · exact ⟨hpending, hcursor⟩
  · exact ⟨hpending, hcursor⟩

/-- Every micro-op and the handler's action keep the counters in range. -/
theorem exec_countersInRange (hs : s.CountersInRange) (h : exec i s = .next t) : t.CountersInRange := by
  have w := exec_writesAsListed h
  rcases w.counters with ⟨hp, hc⟩ | hi
  · exact hs.congr hp hc w.params
  · rcases mem_loads_or_eq_txc hi with hload | rfl
    · obtain ⟨sel, hsel⟩ := exec_of_mem_loads hload s
      have hlen : 0 < (s.message sel).length := by have := length_message s sel; omega
      exact loadMessage_countersInRange hlen hs (hsel ▸ h)
    · exact execTxc_countersInRange hs h

/-- Settles O37: the counters' writers keep them in range, and every other step leaves them. -/
theorem countersStayInRange : Obligations.CountersStayInRange := by
  intro s t hp hc
  have hs : s.CountersInRange := ⟨hp, hc⟩
  exact step_keeps (P := State.CountersInRange) (fun _ _ hu => hu) (fun _ => hs) (fun _ _ => exec_countersInRange hs)
    (fun _ => hs) hs

/-! ### The busy flag (10_state.md R52) -/

/-- A load never clears `BUSY`. -/
theorem loadMessage_busy {m : List Byte} (hs : s.busy = true) (h : loadMessage m s = .next t) : t.busy = true := by
  rcases loadMessage_next.1 h with ⟨-, rfl⟩ | ⟨-, -, rfl⟩ | ⟨-, -, rfl⟩
  · exact hs
  · exact hs
  · rfl

/-- A handler invocation leaves `BUSY`, or finds nothing pending and clears it. -/
theorem execTxc_busy (h : execTxc s = .next t) : t.busy = s.busy ∨ (s.pending = 0 ∧ t.busy = false) := by
  rcases execTxc_next.1 h with ⟨-, -, rfl⟩ | ⟨-, -, hpush⟩ | ⟨hp, rfl⟩
  · exact .inl rfl
  · rcases serPush_next.1 hpush with ⟨-, -, rfl⟩ | ⟨-, rfl⟩ <;> exact .inl rfl
  · exact .inr ⟨hp, rfl⟩

/-- A micro-op the sequencer fetches leaves `BUSY`, or it is a load and leaves `BUSY` set. -/
theorem exec_busy_of_fetched (hne : i ≠ .txc) (h : exec i s = .next t) :
    t.busy = s.busy ∨ (i ∈ [Instr.txLoadBanner, .txLoadHex, .txLoadCrlf] ∧ (s.busy = true → t.busy = true)) := by
  refine (exec_writesAsListed h).busy.imp_right fun hi => ?_
  rcases mem_loads_or_eq_txc hi with hload | htxc
  · obtain ⟨sel, hsel⟩ := exec_of_mem_loads hload s
    exact ⟨hload, fun hb => loadMessage_busy hb (hsel ▸ h)⟩
  · exact absurd htxc hne

/-- Every step leaves `BUSY`, or it is a load SEQ fetched, which leaves `BUSY` set, or the handler's with nothing
pending, which clears it. -/
theorem step_busy (h : step s = .next t) :
    t.busy = s.busy ∨
    (s.mover = .seq ∧ (∃ i, i ∈ [Instr.txLoadBanner, .txLoadHex, .txLoadCrlf] ∧ decodeFetched s.fetchWord = .ok i) ∧
      (s.busy = true → t.busy = true)) ∨
    (s.mover = .txc ∧ s.pending = 0 ∧ t.busy = false) := by
  obtain ⟨u, rfl, ⟨r, rfl⟩ | ⟨hm, i, hi, he⟩ | ⟨hm, he⟩ | ⟨-, b, -, rfl⟩ | ⟨-, rfl⟩⟩ := step_writes h
  · exact .inl rfl
  · obtain ⟨-, hne⟩ := decodeFetched_ok.1 hi
    rcases exec_busy_of_fetched hne he with hb | ⟨hload, hb⟩
    · exact .inl hb
    · exact .inr (.inl ⟨hm, ⟨i, hload, hi⟩, hb⟩)
  · exact (execTxc_busy he).imp_right fun ⟨hp, hb⟩ => .inr ⟨hm, hp, hb⟩
  · exact .inl rfl
  · exact .inl rfl

/-- Settles O41: of the three kinds of step, only the load can raise `BUSY` and only the handler's can clear it. -/
theorem busyHasOneSetterAndOneClearer : Obligations.BusyHasOneSetterAndOneClearer := by
  intro s t h
  rcases step_busy h with hsame | ⟨hm, hload, hset⟩ | ⟨hm, hp, hclear⟩
  · exact ⟨fun h0 h1 => absurd (hsame.trans h0) (by simp [h1]), fun h1 h0 => absurd (hsame.trans h1) (by simp [h0])⟩
  · exact ⟨fun _ _ => ⟨hm, hload⟩, fun h1 h0 => absurd (hset h1) (by simp [h0])⟩
  · exact ⟨fun _ h1 => absurd hclear (by simp [h1]), fun _ _ => ⟨hm, hp⟩⟩

end Sys2Proof.Machine
end

section
/-!
The memory family: the byte spaces and what no step writes to, the ROM read over the pins, and what the handler shares
with the sequencer (20_memory.md R80 to R85, R97, R101).
-/
namespace Sys2Proof.Machine
variable {i : Instr} {s t u : State}

/-! ### Byte spaces in canonical form (20_memory.md R80) -/

section ByteSpace
variable {dflt : Nat → Byte} {size lo k : Nat} {m m' : Memory}

/-- A canonical listing that starts at `lo` lists no address below it. -/
theorem Memory.read_of_lt (h : Memory.wfFrom dflt size lo m = true) (hk : k < lo) : Memory.read dflt m k = dflt k := by
  induction m generalizing lo with
  | nil => rfl
  | cons c rest ih =>
    obtain ⟨hlo, -, -, hrest⟩ := Memory.wfFrom_cons.1 h
    rw [Memory.read, if_neg (by omega), ih hrest (by omega)]

/-- The first address of a canonical listing does not read as an unlisted one. -/
theorem Memory.read_head_ne {c : Host.Cell} (h : Memory.wfFrom dflt size lo (c :: m) = true) :
    Memory.read dflt (c :: m) c.1 ≠ dflt c.1 := by
  obtain ⟨-, -, hne, -⟩ := Memory.wfFrom_cons.1 h
  rwa [Memory.read, if_pos rfl]

/-- Of two canonical listings that read alike neither starts before the other. -/
theorem Memory.head_le_of_read_eq {c c' : Host.Cell} (h : Memory.wfFrom dflt size lo (c :: m) = true)
    (h' : Memory.wfFrom dflt size lo (c' :: m') = true)
    (hread : ∀ a, Memory.read dflt (c :: m) a = Memory.read dflt (c' :: m') a) : c'.1 ≤ c.1 := by
  by_contra hlt
  obtain ⟨-, hsize, hne, hrest⟩ := Memory.wfFrom_cons.1 h'
  have hfrom : Memory.wfFrom dflt size c'.1 (c' :: m') = true := Memory.wfFrom_cons.2 ⟨le_rfl, hsize, hne, hrest⟩
  exact Memory.read_head_ne h ((hread c.1).trans (Memory.read_of_lt hfrom (by omega)))

/-- Canonical listings that read alike are equal, from any common lower bound of their addresses. -/
theorem Memory.eq_of_read_eq (h : Memory.wfFrom dflt size lo m = true) (h' : Memory.wfFrom dflt size lo m' = true)
    (hread : ∀ a, Memory.read dflt m a = Memory.read dflt m' a) : m = m' := by
  induction m generalizing m' lo with
  | nil =>
    cases m' with
    | nil => rfl
    | cons c' rest' => exact absurd (hread c'.1).symm (Memory.read_head_ne h')
  | cons c rest ih =>
    cases m' with
    | nil => exact absurd (hread c.1) (Memory.read_head_ne h)
    | cons c' rest' =>
      have haddr : c.1 = c'.1 :=
        le_antisymm (Memory.head_le_of_read_eq h' h fun a => (hread a).symm) (Memory.head_le_of_read_eq h h' hread)
      have hbyte : c.2 = c'.2 := by simpa [Memory.read, haddr] using hread c.1
      obtain ⟨-, -, -, hrest⟩ := Memory.wfFrom_cons.1 h
      obtain ⟨-, -, -, hrest'⟩ := Memory.wfFrom_cons.1 h'
      rw [← haddr] at hrest'
      have htail : rest = rest' := ih hrest hrest' fun a => by
        by_cases ha : a = c.1
        · rw [Memory.read_of_lt hrest (by omega), Memory.read_of_lt hrest' (by omega)]
        · simpa [Memory.read, ← haddr, Ne.symm ha] using hread a
      rw [Prod.ext haddr hbyte, htail]

end ByteSpace

/-- Settles O38: by induction on both listings, whose first cells agree. -/
theorem canonicalMemoriesAreEqualData : Obligations.CanonicalMemoriesAreEqualData := by
  intro dflt size m m' h h' hread
  exact Memory.eq_of_read_eq h h' hread

/-- Settles O36: reset lists nothing. -/
theorem resetMemoryIsCanonical : Obligations.ResetMemoryIsCanonical := State.reset_memWf

/-! ### What no step writes (20_memory.md R101) -/

/-- `t` has the control store, the ROM and the parameters of `s`. -/
def State.SameStores (s t : State) : Prop := t.cs = s.cs ∧ t.rom = s.rom ∧ t.params = s.params

/-- Every step leaves the listings of the control store and of the ROM, and the parameters. -/
theorem step_sameStores (h : step s = .next t) : s.SameStores t :=
  step_keeps (P := s.SameStores) (fun _ _ hu => hu) (fun _ => ⟨rfl, rfl, rfl⟩)
    (fun _ _ he => have w := exec_writesAsListed he; ⟨w.cs, w.rom, w.params⟩)
    (fun _ => ⟨rfl, rfl, rfl⟩) ⟨rfl, rfl, rfl⟩ h

/-- Settles O34: the words read are those of listings that no step writes. -/
theorem noStepWritesStoreRomOrParameters : Obligations.NoStepWritesStoreRomOrParameters := by
  intro s t h
  obtain ⟨hcs, hrom, hparams⟩ := step_sameStores h
  have hword : ∀ u, t.csWord u = s.csWord u := fun u => by rw [State.csWord, State.csWord, hcs]
  have hdata : ∀ a, t.romWord a = s.romWord a := fun a => by rw [State.romWord, State.romWord, hrom]
  exact ⟨hword, hdata, hparams⟩

/-! ### The ROM read over the pins (20_memory.md R82, R85) -/

/-- A sequence whose first part has run goes on with the rest. -/
theorem runOps_append_of_next {is js : List Instr} (h : runOps is s = .next t) : runOps (is ++ js) s = runOps js t := by
  induction is generalizing s with
  | nil => rw [next_eq.1 h]; rfl
  | cons i rest ih =>
    obtain ⟨u, hu⟩ := exec_answers i s
    rw [runOps, hu, andThen] at h
    rw [List.cons_append, runOps, hu, andThen, ih h]

/-- A settled and enabled sample captures the selected half of the presented word, and takes no draw. -/
theorem State.capture_of_sampleValid (h : s.sampleValid = true) (i : Fin 32) :
    s.capture i = s.putCap i (selectHalf s.stb (s.romWord s.busAddress)) := by
  rw [State.capture, State.busSample, if_pos h, h]
  rfl

/-- `CAP[j]` after a write to `CAP[i]`. -/
theorem State.capAt_putCap (s : State) (i j : Fin 32) (b : Byte) :
    (s.putCap i b).capAt j = if j = i then b else s.capAt j := by
  simp only [State.capAt, State.putCap_cap, Vector.get_eq_getElem, Vector.getElem_set, Fin.ext_iff, eq_comm]

/-- The state after the address drives of `READ_WORD`. -/
def State.present (s : State) : State :=
  { s with pinAlo := addrLo s.addr, pinAmid := addrMid s.addr, pinAhi := addrHi s.addr, stbStale := true,
           settled := false, upc := s.upc + 3#6 }

/-- The state after strobing at level `v`, settling and capturing the selected half at position `i`. -/
def State.captureHalf (s : State) (v : Bool) (i : Fin 32) : State :=
  { s.putCap i (selectHalf v (s.romWord s.busAddress)) with
    stb := v, stbStale := false, settled := true, upc := s.upc + 3#6 }

/-- `CAP[j]` after capturing a half at position `i`. -/
theorem State.capAt_captureHalf (s : State) (v : Bool) (i j : Fin 32) :
    (s.captureHalf v i).capAt j = if j = i then selectHalf v (s.romWord s.busAddress) else s.capAt j :=
  s.capAt_putCap i j _

/-- Three micro-ops later in the control store. -/
theorem index_add_three (x : Index) : x + 1#6 + 1#6 + 1#6 = x + 3#6 := by
  rw [BitVec.add_assoc, BitVec.add_assoc]; rfl

/-- The three drives present `ADDR` on the pins. -/
theorem runOps_drives (s : State) : runOps [.drvLo, .drvMid, .drvHi] s = .next s.present := by
  simp only [runOps, andThen, exec_drvLo, exec_drvMid, exec_drvHi, State.present, ← index_add_three]
  rfl

@[simp] theorem State.busAddress_present (s : State) : s.present.busAddress = s.addr := joinAddr_split s.addr
@[simp] theorem State.romWord_present (s : State) (a : Address) : s.present.romWord a = s.romWord a := rfl
@[simp] theorem State.capAt_present (s : State) (j : Fin 32) : s.present.capAt j = s.capAt j := rfl
@[simp] theorem State.busAddress_captureHalf (s : State) (v : Bool) (i : Fin 32) :
    (s.captureHalf v i).busAddress = s.busAddress := rfl
@[simp] theorem State.romWord_captureHalf (s : State) (v : Bool) (i : Fin 32) (a : Address) :
    (s.captureHalf v i).romWord a = s.romWord a := rfl
@[simp] theorem selectHalf_high (w : Word) : selectHalf stbHighLevel w = highByte w := rfl
@[simp] theorem selectHalf_low (w : Word) : selectHalf (!stbHighLevel) w = lowByte w := rfl

/-- With the chip enabled, the strobe fresh and the margin met, a sample after SETTLE captures the selected half. -/
theorem State.capture_settled (hce : s.ce = true) (hoe : s.oe = true) (hfresh : s.stbStale = false)
    (hm : s.params.tMin ≤ s.params.tSettle) (i : Fin 32) :
    (s.setSettled (s.marginMet || s.settled)).advance.capture i =
      (s.setSettled true).advance.putCap i (selectHalf s.stb (s.romWord s.busAddress)) := by
  have hmargin : s.marginMet = true := decide_eq_true hm
  have hvalid : (s.setSettled true).advance.sampleValid = true := by simp [State.sampleValid, hce, hoe, hfresh]
  rw [hmargin, Bool.true_or, State.capture_of_sampleValid hvalid]
  rfl

/-- With the chip enabled and the margin met, strobing high, settling and sampling captures the high byte. -/
theorem runOps_sampleHigh (hce : s.ce = true) (hoe : s.oe = true) (hm : s.params.tMin ≤ s.params.tSettle) :
    runOps [.stbH, .settle, .smpH] s = .next (s.captureHalf stbHighLevel (capHigh s.word)) := by
  simp only [runOps, andThen, exec_stbH, exec_settle, exec_smpH]
  rw [State.capture_settled (s := (s.driveStb stbHighLevel).advance) hce hoe rfl hm, State.captureHalf,
    ← index_add_three]
  rfl

/-- With the chip enabled and the margin met, strobing low, settling and sampling captures the low byte. -/
theorem runOps_sampleLow (hce : s.ce = true) (hoe : s.oe = true) (hm : s.params.tMin ≤ s.params.tSettle) :
    runOps [.stbL, .settle, .smpL] s = .next (s.captureHalf (!stbHighLevel) (capLow s.word)) := by
  simp only [runOps, andThen, exec_stbL, exec_settle, exec_smpL]
  rw [State.capture_settled (s := (s.driveStb (!stbHighLevel)).advance) hce hoe rfl hm, State.captureHalf,
    ← index_add_three]
  rfl

/-- The state after `READ_WORD` with the chip enabled and the margin met. -/
def State.readBoth (s : State) : State :=
  ((s.present.captureHalf stbHighLevel (capHigh s.word)).captureHalf (!stbHighLevel) (capLow s.word)).stepAddr.advance

/-- `READ_WORD` is the three drives, the two samples and the increment. -/
theorem runOps_readWord (hce : s.ce = true) (hoe : s.oe = true) (hm : s.params.tMin ≤ s.params.tSettle) :
    runOps readWord s = .next s.readBoth := by
  calc runOps readWord s
    _ = runOps [.stbH, .settle, .smpH, .stbL, .settle, .smpL, .ainc] s.present :=
      runOps_append_of_next (runOps_drives s)
    _ = runOps [.stbL, .settle, .smpL, .ainc] (s.present.captureHalf stbHighLevel (capHigh s.word)) :=
      runOps_append_of_next (runOps_sampleHigh (s := s.present) hce hoe hm)
    _ = runOps [.ainc] ((s.present.captureHalf stbHighLevel (capHigh s.word)).captureHalf (!stbHighLevel)
          (capLow s.word)) :=
      runOps_append_of_next (runOps_sampleLow (s := s.present.captureHalf stbHighLevel _) hce hoe hm)
    _ = .next s.readBoth := rfl

/-- The two capture positions of a word differ. -/
theorem capHigh_ne_capLow (w : BitVec 4) : capHigh w ≠ capLow w := by
  simp [capHigh, capLow]

/-- `READ_WORD` captures the high byte and then, at another position, the low byte. -/
theorem State.capAt_readBoth (s : State) (j : Fin 32) :
    s.readBoth.capAt j =
      if j = capHigh s.word then highByte (s.romWord s.addr)
      else if j = capLow s.word then lowByte (s.romWord s.addr)
      else s.capAt j := by
  have hcap : s.readBoth.cap =
      ((s.present.captureHalf stbHighLevel (capHigh s.word)).captureHalf (!stbHighLevel) (capLow s.word)).cap := rfl
  rw [State.capAt, hcap, ← State.capAt, State.capAt_captureHalf, State.capAt_captureHalf]
  by_cases hhigh : j = capHigh s.word
  · simp [hhigh, capHigh_ne_capLow]
  · simp [hhigh]

/-- `READ_WORD` writes the pins, the strobe, the hidden bits, `ADDR`, `upc` and the capture buffer. -/
theorem State.readBoth_eq (s : State) :
    s.readBoth =
      { s with cap := s.readBoth.cap, addr := s.addr + 1#20, upc := s.upc + 10#6, settled := true, stbStale := false,
               stb := !stbHighLevel, pinAlo := addrLo s.addr, pinAmid := addrMid s.addr, pinAhi := addrHi s.addr } := by
  have hupc : s.upc + 3#6 + 3#6 + 3#6 + 1#6 = s.upc + 10#6 := by simp only [BitVec.add_assoc]; rfl
  rw [← hupc]
  rfl

/-- Settles O18: the sequence's state, its capture buffer, and its frame. -/
theorem readWordCapturesBothHalves : Obligations.ReadWordCapturesBothHalves := by
  intro s hce hoe hm
  exact ⟨s.readBoth, runOps_readWord hce hoe hm, s.capAt_readBoth, s.readBoth_eq⟩

/-! ### The handler and the sequencer (20_memory.md R97) -/

/-- `s` with the registers a handler invocation may write as `t` has them. -/
def State.withHandlerWrites (s t : State) : State :=
  { s with tcPend := t.tcPend, pending := t.pending, cursor := t.cursor, busy := t.busy, ready := t.ready,
           inflight := t.inflight, fault := t.fault }

/-- The handler's action depends only on the buffer, the parameters and the registers it may write, and it writes no
others. -/
theorem execTxc_withHandlerWrites (hbuf : u.txbuf = s.txbuf) (hparams : u.params = s.params)
    (h : execTxc s = .next t) : execTxc (u.withHandlerWrites s) = .next (u.withHandlerWrites t) := by
  have hcap : (u.withHandlerWrites s).params.txbufCap = s.params.txbufCap := congrArg Params.txbufCap hparams
  have hunit : (u.withHandlerWrites s).txAt (u.withHandlerWrites s).cursor = s.txAt s.cursor :=
    congrArg (Memory.read txDefault · s.cursor) hbuf
  rw [execTxc_next] at h ⊢
  rcases h with ⟨hp, hc, rfl⟩ | ⟨hp, hc, hpush⟩ | ⟨hp, rfl⟩
  · exact .inl ⟨hp, hcap.le.trans hc, rfl⟩
  · refine .inr (.inl ⟨hp, hc.trans_eq hcap.symm, ?_⟩)
    rw [hunit, serPush_next]
    exact (serPush_next.1 hpush).imp (fun ⟨hready, hfree, e⟩ => ⟨hready, hfree, e ▸ rfl⟩)
      fun ⟨hover, e⟩ => ⟨hover, e ▸ rfl⟩
  · exact .inr (.inr ⟨hp, rfl⟩)

/-- The handler's action writes no other register. -/
theorem execTxc_frame (h : execTxc s = .next t) : t = s.withHandlerWrites t :=
  next_eq.1 ((execTxc_withHandlerWrites (u := s) rfl rfl h).symm.trans h)

section Unshared
variable (hi : i ∉ [Instr.txClaim, .txLoadBanner, .txLoadHex, .txLoadCrlf, .txWaitRdy, .txPush0]) (hne : i ≠ .txc)
include hi hne

/-- A micro-op that shares no state with the handler writes neither a register the handler may write nor the buffer. -/
theorem withHandlerWrites_of_exec (h : exec i s = .next u) : u.withHandlerWrites s = u ∧ u.txbuf = s.txbuf := by
  have w := exec_writesAsListed h
  simp only [List.mem_cons, List.not_mem_nil, or_false, not_or] at hi
  obtain ⟨-, hbanner, hhex, hcrlf, -, hpush⟩ := hi
  obtain ⟨hpending, hcursor⟩ := w.counters.resolve_right (by simp [*])
  obtain ⟨hready, hinflight⟩ := w.transmitter.resolve_right (by simp [*])
  have hbusy : u.busy = s.busy := w.busy.resolve_right (by simp [*])
  have hfault : u.fault = s.fault := w.fault.resolve_right (by simp [*])
  have htcPend : u.tcPend = s.tcPend := w.tcPend.resolve_right hne
  refine ⟨?_, w.txbuf.resolve_right (by simp [*])⟩
  rw [State.withHandlerWrites, ← htcPend, ← hpending, ← hcursor, ← hbusy, ← hready, ← hinflight, ← hfault]

/-- A micro-op that shares no state with the handler does the same whatever the handler has written. -/
theorem exec_withHandlerWrites (h : exec i s = .next u) (t : State) :
    exec i (s.withHandlerWrites t) = .next (u.withHandlerWrites t) := by
  cases i
  case txClaim | txLoadBanner | txLoadHex | txLoadCrlf | txWaitRdy | txPush0 => simp at hi
  case txc => exact absurd rfl hne
  case loopWord =>
    rcases execLoopWord_next.1 h with ⟨hlast, rfl⟩ | ⟨hmore, rfl⟩
    · exact execLoopWord_next.2 (.inl ⟨hlast, rfl⟩)
    · exact execLoopWord_next.2 (.inr ⟨hmore, rfl⟩)
  case loopTok =>
    rcases execLoopTok_next.1 h with ⟨hlast, rfl⟩ | ⟨hmore, rfl⟩
    · exact execLoopTok_next.2 (.inl ⟨hlast, rfl⟩)
    · exact execLoopTok_next.2 (.inr ⟨hmore, rfl⟩)
  case loopRow =>
    rcases execLoopRow_next.1 h with ⟨hlast, rfl⟩ | ⟨hmore, rfl⟩
    · exact execLoopRow_next.2 (.inl ⟨hlast, rfl⟩)
    · exact execLoopRow_next.2 (.inr ⟨hmore, rfl⟩)
  all_goals
    obtain rfl := next_eq.1 h
    rfl

end Unshared

/-- Settles O44: in either order the state has the micro-op's writes and the handler's; TXC commutes with itself. -/
theorem handlerCommutesWithUnsharedMicroOps : Obligations.HandlerCommutesWithUnsharedMicroOps := by
  intro i s hi
  by_cases hne : i = .txc
  · rw [hne]
  obtain ⟨u, hu⟩ := exec_answers i s
  obtain ⟨t, ht⟩ := exec_answers .txc s
  obtain ⟨hkeep, hbuf⟩ := withHandlerWrites_of_exec hi hne hu
  have hthen : exec .txc u = .next (u.withHandlerWrites t) :=
    hkeep ▸ execTxc_withHandlerWrites hbuf (exec_writesAsListed hu).params ht
  have hfirst : exec i t = .next (u.withHandlerWrites t) := execTxc_frame ht ▸ exec_withHandlerWrites hi hne hu t
  rw [hu, ht, andThen, andThen, hthen, hfirst]

end Sys2Proof.Machine
end

section
/-!
The encoding family: the decoder and the encoder agree, and the words SEQ rejects (30_encoding.md Part B).
-/
namespace Sys2Proof
variable {op imm : Byte} {w : Word} {i j : Instr}

/-! ### The decoder and the encoder (30_encoding.md R128 to R130) -/

/-- The micro-op is well formed and these are the two fields of its micro-word. -/
def Instr.HasFields (i : Instr) (op imm : Byte) : Prop := i.WellFormed ∧ i.opcode = op ∧ i.operand = imm

/-- A micro-op's word has its two fields. -/
theorem Instr.hasFields_iff : i.HasFields (opField w) (immField w) ↔ i.WellFormed ∧ encode i = w := by
  refine and_congr_right fun _ => ?_
  rw [encode, ← packWord_inj, packWord_fields]

theorem hasFields_of_decodePlain (hj : j.HasFields op 0x00#8) (h : decodePlain j imm = .ok i) : i.HasFields op imm := by
  obtain ⟨rfl, rfl⟩ := decodePlain_ok.1 h
  exact hj

theorem hasFields_of_decodeLoad (h : decodeLoad imm = .ok i) : i.HasFields 0x22#8 imm := by
  rcases decodeLoad_ok.1 h with ⟨rfl, rfl⟩ | ⟨rfl, rfl⟩ | ⟨rfl, rfl⟩ <;> exact ⟨trivial, rfl, rfl⟩

theorem hasFields_of_decodeLoop {f : Byte → Instr} (hf : IsTarget imm → (f imm).HasFields op imm)
    (h : decodeLoop f imm = .ok i) : i.HasFields op imm := by
  obtain ⟨ht, rfl⟩ := decodeLoop_ok.1 h
  exact hf ht

/-- One row of the opcode map: either it is the row of `op`, or a later row reads the micro-op. -/
theorem hasFields_of_row {k : Byte} {row later : Except Illegal Instr} (h : (if op = k then row else later) = .ok i)
    (hrow : row = .ok i → i.HasFields k imm) (hlater : later = .ok i → i.HasFields op imm) : i.HasFields op imm := by
  rcases ite_eq_iff.1 h with ⟨rfl, hok⟩ | ⟨-, hok⟩
  · exact hrow hok
  · exact hlater hok

/-- What the opcode map reads from two fields is a well-formed micro-op that has them: row by row of the map. -/
theorem hasFields_of_decodeFields (h : decodeFields op imm = .ok i) : i.HasFields op imm := by
  unfold decodeFields at h
  iterate 15 refine hasFields_of_row h (hasFields_of_decodePlain ⟨trivial, rfl, rfl⟩) fun h => ?_
  refine hasFields_of_row h hasFields_of_decodeLoad fun h => ?_
  iterate 2 refine hasFields_of_row h (hasFields_of_decodePlain ⟨trivial, rfl, rfl⟩) fun h => ?_
  iterate 3 refine hasFields_of_row h (hasFields_of_decodeLoop fun ht => ⟨ht, rfl, rfl⟩) fun h => ?_
  iterate 2 refine hasFields_of_row h (hasFields_of_decodePlain ⟨trivial, rfl, rfl⟩) fun h => ?_
  exact nomatch h

/-- The opcode map reads a well-formed micro-op from its own two fields. -/
theorem decodeFields_opcode_operand (hi : i.WellFormed) : decodeFields i.opcode i.operand = .ok i := by
  cases i
  case loopWord imm | loopTok imm | loopRow imm => exact decodeLoop_ok.2 ⟨hi, rfl⟩
  all_goals rfl

theorem decodeFields_ok : decodeFields op imm = .ok i ↔ i.HasFields op imm := by
  refine ⟨hasFields_of_decodeFields, ?_⟩
  rintro ⟨hi, rfl, rfl⟩
  exact decodeFields_opcode_operand hi

/-- The decoder reads exactly the words of well-formed micro-ops. -/
theorem decode_ok : decode w = .ok i ↔ i.WellFormed ∧ encode i = w := decodeFields_ok.trans Instr.hasFields_iff

/-- Settles O1: the opcode map reads exactly the fields of well-formed micro-ops, and a word is its two fields. -/
theorem decodeEncodeAgree : Obligations.DecodeEncodeAgree := fun _ _ => decode_ok

/-- Settles O3: each word is the encoding of its micro-op, and the last one's `IMM[7:6]` is 1. -/
theorem sampleWordsDecode : Obligations.SampleWordsDecode := by
  have hword {w : Word} {i : Instr} (hi : i.WellFormed) (he : encode i = w) : decode w = .ok i := decode_ok.2 ⟨hi, he⟩
  exact ⟨hword trivial rfl, hword trivial rfl, hword trivial rfl, hword trivial rfl, hword trivial rfl,
    hword trivial rfl, hword trivial rfl, hword (by decide : IsTarget 0x3F#8) rfl, hword trivial rfl,
    hword trivial rfl, by decide⟩

/-! ### The illegal words (30_encoding.md R131) -/

/-- The opcodes of the micro-ops whose `IMM` must be 0x00 and that may stand in the control store. -/
def plainOpcodes : List Byte :=
  [0x01#8, 0x02#8, 0x03#8, 0x04#8, 0x08#8, 0x09#8, 0x0A#8, 0x0B#8, 0x0C#8, 0x10#8, 0x11#8, 0x12#8, 0x13#8, 0x20#8,
   0x21#8, 0x23#8, 0x24#8, 0x3F#8]

/-- The opcodes of the loop micro-ops. -/
def loopOpcodes : List Byte := [0x30#8, 0x31#8, 0x32#8]

/-- The fields of a word SEQ accepts, by the kind of its opcode. -/
def Accepted (op imm : Byte) : Prop :=
  (op ∈ plainOpcodes ∧ imm = 0x00#8) ∨ (op = 0x22#8 ∧ imm.toNat ≤ 0x02) ∨ (op ∈ loopOpcodes ∧ IsTarget imm)

/-- Every micro-op but TXC has accepted fields. -/
theorem Instr.HasFields.accepted (h : i.HasFields op imm) (hne : i ≠ .txc) : Accepted op imm := by
  obtain ⟨hwf, rfl, rfl⟩ := h
  cases i
  case txc => exact absurd rfl hne
  case txLoadBanner | txLoadHex | txLoadCrlf => exact .inr (.inl ⟨rfl, by decide⟩)
  case loopWord | loopTok | loopRow => exact .inr (.inr ⟨by simp [Instr.opcode, loopOpcodes], hwf⟩)
  all_goals exact .inl ⟨by decide, rfl⟩

/-- A plain opcode is that of a micro-op without an operand that the assembler knows. -/
theorem exists_hasFields_of_plainOpcode (h : op ∈ plainOpcodes) : ∃ i : Instr, i.HasFields op 0x00#8 ∧ i ≠ .txc := by
  have hmap : plainOps.map Instr.opcode = plainOpcodes := rfl
  have hplain : ∀ i ∈ plainOps, i.wellFormed = true ∧ i.operand = 0x00#8 ∧ i ≠ .txc := by decide
  rw [← hmap, List.mem_map] at h
  obtain ⟨i, hi, hop⟩ := h
  obtain ⟨hwf, himm, hne⟩ := hplain i hi
  exact ⟨i, ⟨i.wellFormed_iff.1 hwf, hop, himm⟩, hne⟩

/-- Accepted fields are those of a micro-op other than TXC. -/
theorem Accepted.exists_hasFields (h : Accepted op imm) : ∃ i : Instr, i.HasFields op imm ∧ i ≠ .txc := by
  rcases h with ⟨hop, rfl⟩ | ⟨rfl, himm⟩ | ⟨hop, ht⟩
  · exact exists_hasFields_of_plainOpcode hop
  · have hsel : imm = 0x00#8 ∨ imm = 0x01#8 ∨ imm = 0x02#8 := by bv_omega
    rcases hsel with rfl | rfl | rfl
    · exact ⟨.txLoadBanner, ⟨trivial, rfl, rfl⟩, nofun⟩
    · exact ⟨.txLoadHex, ⟨trivial, rfl, rfl⟩, nofun⟩
    · exact ⟨.txLoadCrlf, ⟨trivial, rfl, rfl⟩, nofun⟩
  · simp only [loopOpcodes, List.mem_cons, List.not_mem_nil, or_false] at hop
    rcases hop with rfl | rfl | rfl
    · exact ⟨.loopWord imm, ⟨ht, rfl, rfl⟩, nofun⟩
    · exact ⟨.loopTok imm, ⟨ht, rfl, rfl⟩, nofun⟩
    · exact ⟨.loopRow imm, ⟨ht, rfl, rfl⟩, nofun⟩

theorem decodeFetched_ok_iff_hasFields :
    decodeFetched w = .ok i ↔ i.HasFields (opField w) (immField w) ∧ i ≠ .txc :=
  decodeFetched_ok.trans (and_congr_left' decodeFields_ok)

/-- SEQ rejects a word exactly when its fields are not accepted. -/
theorem decodeFetched_error : (∃ e, decodeFetched w = .error e) ↔ ¬ Accepted (opField w) (immField w) := by
  cases hd : decodeFetched w with
  | ok i =>
    obtain ⟨hf, hne⟩ := decodeFetched_ok_iff_hasFields.1 hd
    simp [hf.accepted hne]
  | error e =>
    refine iff_of_true ⟨e, rfl⟩ fun hacc => ?_
    obtain ⟨i, hi⟩ := hacc.exists_hasFields
    exact absurd (hd.symm.trans (decodeFetched_ok_iff_hasFields.2 hi)) nofun

/-- The opcodes of the table. -/
def tableOpcodes : List Byte :=
  [0x01#8, 0x02#8, 0x03#8, 0x04#8, 0x08#8, 0x09#8, 0x0A#8, 0x0B#8, 0x0C#8, 0x10#8, 0x11#8, 0x12#8, 0x13#8, 0x20#8,
   0x21#8, 0x22#8, 0x23#8, 0x24#8, 0x30#8, 0x31#8, 0x32#8, 0x3F#8, 0x40#8]

/-- The table's opcodes are the plain ones, TX_LOAD's, the loops' and TXC's. -/
theorem mem_tableOpcodes : op ∈ tableOpcodes ↔ op ∈ plainOpcodes ∨ op = 0x22#8 ∨ op ∈ loopOpcodes ∨ op = 0x40#8 := by
  have hperm : tableOpcodes.Perm (plainOpcodes ++ 0x22#8 :: (loopOpcodes ++ [0x40#8])) := by decide
  rw [hperm.mem_iff]
  simp

/-- The five clauses of R131, over the two fields of a word. -/
def Rejected (op imm : Byte) : Prop :=
  op ∉ tableOpcodes ∨ op = 0x40#8 ∨ (op ∈ plainOpcodes ∧ imm ≠ 0x00#8) ∨ (op = 0x22#8 ∧ 0x02 < imm.toNat) ∨
    (op ∈ loopOpcodes ∧ ¬ IsTarget imm)

/-- The clauses of R131 are the complement of the accepted fields, since no opcode is of two kinds. -/
theorem rejected_iff : Rejected op imm ↔ ¬ Accepted op imm := by
  have hplain : ∀ op ∈ plainOpcodes, op ≠ 0x22#8 ∧ op ∉ loopOpcodes ∧ op ≠ 0x40#8 := by decide
  have hloop : ∀ op ∈ loopOpcodes, op ≠ 0x22#8 ∧ op ≠ 0x40#8 := by decide
  unfold Rejected Accepted
  rw [mem_tableOpcodes]
  by_cases hp : op ∈ plainOpcodes
  · simp [hp, hplain op hp]
  by_cases hl : op ∈ loopOpcodes
  · simp [hp, hl, hloop op hl]
  by_cases hload : op = 0x22#8
  · subst hload
    simp [hp, hl]
  · simp [hp, hl, hload, em']

/-- The branch-target bits of a word are those of its `IMM` byte. -/
theorem isTarget_immField : IsTarget (immField w) ↔ w.extractLsb' 6 2 = 0#2 := by
  have hbits : (immField w).extractLsb' 6 2 = w.extractLsb' 6 2 := by
    ext k hk
    simp [immField]
  rw [IsTarget, hbits]

end Sys2Proof

namespace Sys2Proof.Machine

/-- Beyond the program the control store holds 0x0000 at reset. -/
theorem csWord_reset_of_le {u : Index} (h : 0x1F ≤ u.toNat) : State.reset.csWord u = 0x0000#16 := by
  have hfetch : State.reset.csWord u = programWord u.toNat :=
    State.fetchWord_fixed (s := State.reset.branch u) rfl
  rw [hfetch, programWord, List.getD_eq_default _ _ h]

/-- Settles O2: SEQ accepts the fields of a micro-op other than TXC, and the clauses are the complement of those. -/
theorem fetchRejectsExactlyIllegalWords : Obligations.FetchRejectsExactlyIllegalWords := by
  refine ⟨fun w => ?_, fun w i => ?_, fun s ⟨e, he⟩ => ?_, ⟨.unlistedOpcode 0x00#8, rfl⟩, fun u => csWord_reset_of_le⟩
  · rw [decodeFetched_error, ← rejected_iff, Rejected, isTarget_immField]
    rfl
  · rw [decodeFetched_ok, decode_ok, and_assoc]
  · exact seqStep_next.2 (.inr ⟨e, he, rfl⟩)

end Sys2Proof.Machine
end

section
/-!
The address split, hex rendering and the messages, and the shape of the output stream (30_encoding.md Part A, R127).
-/
namespace Sys2Proof.Machine
variable {s : State}

/-! ### The address split (30_encoding.md R120, R121) -/

/-- The three pin groups weigh 2^16, 2^8 and 1 in the address they present. -/
theorem toNat_joinAddr (hi : BitVec 4) (mid lo : BitVec 8) :
    (joinAddr hi mid lo).toNat = hi.toNat * 2 ^ 16 + mid.toNat * 2 ^ 8 + lo.toNat := by
  have := mid.isLt
  have := lo.isLt
  simp only [joinAddr, BitVec.toNat_append]
  rw [← Nat.shiftLeft_add_eq_or_of_lt ‹_›, ← Nat.shiftLeft_add_eq_or_of_lt ‹_›]
  simp only [Nat.shiftLeft_eq]
  omega

/-- Every sequence of micro-ops answers a next state. -/
theorem runOps_answers (is : List Instr) (s : State) : ∃ t, runOps is s = .next t := by
  induction is generalizing s with
  | nil => exact ⟨s, rfl⟩
  | cons i rest ih =>
    obtain ⟨t, ht⟩ := exec_answers i s
    simpa only [runOps, ht, andThen] using ih t

/-- Micro-ops that commute with each other may run in any order. -/
theorem runOps_perm {is js : List Instr} (hperm : is.Perm js)
    (hcomm : ∀ i ∈ is, ∀ j ∈ is, ∀ s, runOps [i, j] s = runOps [j, i] s) (s : State) : runOps is s = runOps js s := by
  induction hperm generalizing s with
  | nil => rfl
  | @cons i is js _ ih =>
    obtain ⟨t, ht⟩ := exec_answers i s
    have htail : runOps is t = runOps js t :=
      ih (fun j hj k hk => hcomm j (List.mem_cons_of_mem _ hj) k (List.mem_cons_of_mem _ hk)) t
    simp only [runOps, ht, andThen, htail]
  | swap i j rest =>
    obtain ⟨t, ht⟩ := runOps_answers [j, i] s
    have ht' : runOps [i, j] s = .next t := (hcomm i (by simp) j (by simp) s).trans ht
    exact (runOps_append_of_next ht).trans (runOps_append_of_next ht').symm
  | trans h _ ih ih' =>
    rw [ih hcomm, ih' fun i hi j hj => hcomm i (h.mem_iff.2 hi) j (h.mem_iff.2 hj)]

/-- Two address drives may change places: they write different pins. -/
theorem runOps_drives_comm : ∀ i ∈ [Instr.drvLo, .drvMid, .drvHi], ∀ j ∈ [Instr.drvLo, .drvMid, .drvHi], ∀ s,
    runOps [i, j] s = runOps [j, i] s := by
  intro i hi j hj s
  simp only [List.mem_cons, List.not_mem_nil, or_false] at hi hj
  rcases hi with rfl | rfl | rfl <;> rcases hj with rfl | rfl | rfl <;> rfl

/-- Settles O14: the fields join to the address, and the drives, which commute, present it. -/
theorem addressSplitIsLossless : Obligations.AddressSplitIsLossless := by
  refine ⟨fun a => ?_, fun s is hperm => ⟨s.present, ?_, s.busAddress_present, rfl⟩⟩
  · rw [← toNat_joinAddr, joinAddr_split]
  · rw [← runOps_perm hperm.symm runOps_drives_comm, runOps_drives]

/-! ### Hex rendering and the messages (30_encoding.md R124 to R126) -/

/-- Settles O28: the sixteen digits by evaluation; the nibbles of a byte are its quotient and remainder by 16. -/
theorem hexRendering : Obligations.HexRendering := by
  refine ⟨by decide, fun b => ?_, rfl, rfl, rfl⟩
  have hhigh : b.extractLsb' 4 4 = BitVec.ofNat 4 (b.toNat / 16) := by
    apply BitVec.eq_of_toNat_eq
    simp [Nat.shiftRight_eq_div_pow]
  have hlow : b.extractLsb' 0 4 = BitVec.ofNat 4 (b.toNat % 16) := by
    apply BitVec.eq_of_toNat_eq
    simp
  rw [hexToken, hhigh, hlow]

/-- Settles O29: each message by its definition. -/
theorem messageContents : Obligations.MessageContents := by
  intro s
  exact ⟨rfl, rfl, rfl, rfl, rfl, rfl⟩

/-! ### The shape of the output stream (30_encoding.md R127, 42_sequencing.md R259) -/

@[simp] theorem State.length_rowTokens (s : State) (r n : Nat) : (s.rowTokens r n).length = 2 * n := by
  induction n with
  | zero => rfl
  | succ n ih => rw [State.rowTokens_succ, List.length_append, ih]; rfl

theorem State.length_stream (s : State) (n : Nat) : (s.stream n).length = 11 + 66 * n := by
  induction n with
  | zero => rfl
  | succ n ih =>
    rw [State.stream_succ, List.length_append, List.length_append, ih, State.length_rowTokens]
    simp only [crlfMessage, List.length_cons, List.length_nil]
    omega

/-- The code of a lowercase hex character. -/
def IsHexCode (c : Byte) : Prop := (0x30 ≤ c.toNat ∧ c.toNat ≤ 0x39) ∨ (0x61 ≤ c.toNat ∧ c.toNat ≤ 0x66)

theorem isHexCode_hexDigit (n : BitVec 4) : IsHexCode (hexDigit n) := by
  obtain ⟨hlow, hhigh⟩ := hexRendering.1 n
  have := n.isLt
  unfold IsHexCode
  omega

theorem isHexCode_of_mem_rowTokens {r n : Nat} {c : Byte} (h : c ∈ s.rowTokens r n) : IsHexCode c := by
  obtain ⟨k, -, hc⟩ := List.mem_flatMap.1 h
  simp only [hexToken, List.mem_cons, List.not_mem_nil, or_false] at hc
  rcases hc with rfl | rfl <;> exact isHexCode_hexDigit _

/-- Settles O53: by induction on the rows, and every character of a token is a hex digit's. -/
theorem shapeOfTheStream : Obligations.ShapeOfTheStream := by
  refine ⟨State.length_stream, fun s r => ?_, State.length_stream _ _⟩
  exact ⟨s.rowTokens r 32, rfl, s.length_rowTokens r 32, fun c hc => isHexCode_of_mem_rowTokens hc⟩

end Sys2Proof.Machine
end

section
/-!
The output stream of the fixed micro-program: each step keeps the line and the unsent units together equal to the
messages loaded so far (30_encoding.md R127, 42_sequencing.md R257).
-/
namespace Sys2Proof.Machine
variable {i : Instr} {s t : State}

/-! ### The messages loaded so far, by the place in the program -/

theorem State.loaded_of_le (h : s.upc.toNat ≤ 0x02) : s.loaded = [] := if_pos h

theorem State.loaded_reading (h : s.At 0x03 0x13) : s.loaded = s.stream s.row.toNat := by
  obtain ⟨hlo, hhi⟩ := h
  rw [State.loaded, if_neg (by omega), if_pos hhi]

theorem State.loaded_atToken (h : s.At 0x14 0x15) :
    s.loaded = s.stream s.row.toNat ++ s.rowTokens s.row.toNat s.tok.toNat := by
  obtain ⟨hlo, hhi⟩ := h
  rw [State.loaded, if_neg (by omega), if_neg (by omega), if_pos hhi]

theorem State.loaded_inToken (h : s.At 0x16 0x18) :
    s.loaded = s.stream s.row.toNat ++ s.rowTokens s.row.toNat (s.tok.toNat + 1) := by
  obtain ⟨hlo, hhi⟩ := h
  rw [State.loaded, if_neg (by omega), if_neg (by omega), if_neg (by omega), if_pos hhi]

theorem State.loaded_atCrlf (h : s.At 0x19 0x1A) :
    s.loaded = s.stream s.row.toNat ++ s.rowTokens s.row.toNat 32 := by
  obtain ⟨hlo, hhi⟩ := h
  rw [State.loaded, if_neg (by omega), if_neg (by omega), if_neg (by omega), if_neg (by omega), if_pos hhi]

theorem State.loaded_inCrlf (h : s.At 0x1B 0x1D) : s.loaded = s.stream (s.row.toNat + 1) := by
  obtain ⟨hlo, hhi⟩ := h
  rw [State.loaded, if_neg (by omega), if_neg (by omega), if_neg (by omega), if_neg (by omega), if_neg (by omega),
    if_pos hhi]

theorem State.loaded_atEnd (h : 0x1E ≤ s.upc.toNat) : s.loaded = s.stream s.params.numRows := by
  rw [State.loaded, if_neg (by omega), if_neg (by omega), if_neg (by omega), if_neg (by omega), if_neg (by omega),
    if_neg (by omega)]

/-- The next index, which does not wrap inside the program. -/
theorem index_succ_toNat {x : Index} (h : x.toNat ≤ 0x1E) : (x + 1#6).toNat = x.toNat + 1 := by
  bv_omega

/-- `t` is one place after `s` in the program, with the same row, token, ROM and parameters. -/
structure State.Advances (s t : State) : Prop where
  upc : t.upc = s.upc + 1#6
  row : t.row = s.row
  tok : t.tok = s.tok
  rom : t.rom = s.rom
  params : t.params = s.params

/-- The messages loaded so far change at the loads, at the end of the token loop and at the end of the program only. -/
theorem State.Advances.loaded (h : s.Advances t) (hle : s.upc.toNat ≤ 0x1D)
    (hplace : ¬ (s.AtLoad ∨ s.At 0x18 0x18 ∨ s.At 0x1D 0x1D)) (htok : s.At 0x13 0x13 → s.tok = 0#5) :
    t.loaded = s.loaded := by
  have hupc : t.upc.toNat = s.upc.toNat + 1 := by rw [h.upc, index_succ_toNat (by omega)]
  by_cases h13 : s.upc.toNat = 0x13
  · have hs : s.At 0x13 0x13 := ⟨h13.ge, h13.le⟩
    rw [State.loaded_atToken (s := t) (by omega), State.loaded_reading (by omega), State.stream_congr h.rom, h.row,
      h.tok, htok hs]
    simp [State.rowTokens]
  · have hsame (k : Nat) (hk : s.upc.toNat ≠ k) : t.upc.toNat ≤ k ↔ s.upc.toNat ≤ k := by omega
    simp only [State.loaded, hsame 0x02 (by omega), hsame 0x13 h13, hsame 0x15 (by omega), hsame 0x18 (by omega),
      hsame 0x1A (by omega), hsame 0x1D (by omega), State.stream_congr h.rom, State.rowTokens_congr h.rom, h.row,
      h.tok, h.params]

/-! ### The units not on the line yet -/

theorem State.unsent_of_waiting (h : s.AtWait ∨ s.AtPush) : s.unsent = s.txUnits 0 (s.pending + 1) := if_pos h

theorem State.unsent_of_not_waiting (h : ¬ (s.AtWait ∨ s.AtPush)) :
    s.unsent = s.inflight.toList ++ s.txUnits s.cursor s.pending := if_neg h

/-- `t` has the buffer, the counters, the unit in flight and the line of `s`. -/
structure State.SameUnits (s t : State) : Prop where
  line : t.line = s.line
  txbuf : t.txbuf = s.txbuf
  pending : t.pending = s.pending
  cursor : t.cursor = s.cursor
  inflight : t.inflight = s.inflight

/-- Only the loads, TX_PUSH0 and the handler write the buffer, the counters or the unit in flight. -/
theorem sameUnits_of_exec (hi : i ∉ [Instr.txLoadBanner, .txLoadHex, .txLoadCrlf, .txPush0, .txc])
    (h : exec i s = .next t) : s.SameUnits t := by
  have w := exec_writesAsListed h
  simp only [List.mem_cons, List.not_mem_nil, or_false, not_or] at hi
  obtain ⟨hbanner, hhex, hcrlf, hpush, htxc⟩ := hi
  obtain ⟨hpending, hcursor⟩ := w.counters.resolve_right (by simp [*])
  obtain ⟨-, hinflight⟩ := w.transmitter.resolve_right (by simp [*])
  exact ⟨w.line, w.txbuf.resolve_right (by simp [*]), hpending, hcursor, hinflight⟩

/-- A step that moves no unit keeps the output invariant if it neither enters nor leaves the wait for the first push,
and what is loaded stays. -/
theorem State.SameUnits.output (h : s.SameUnits t) (hwait : t.AtWait ∨ t.AtPush ↔ s.AtWait ∨ s.AtPush)
    (hloaded : t.loaded = s.loaded) (ho : s.Output) : t.Output := by
  have hunsent : t.unsent = s.unsent := by
    simp only [State.unsent, hwait, State.txUnits_congr h.txbuf, h.pending, h.cursor, h.inflight]
  rw [State.Output, h.line, hunsent, hloaded, ho]

/-! ### The micro-ops of the fixed program

A step that spins or marks a fault leaves everything the invariant looks at; its case is closed by the invariant before
the step. -/

/-- The micro-ops that only drive pins, sample, count the address or start the transmitter. -/
def straightOps : List Instr :=
  [.serInit, .ceOn, .ceOff, .oeOn, .oeOff, .stbH, .stbL, .drvLo, .drvMid, .drvHi, .settle, .smpH, .smpL, .ainc]

theorem advances_of_exec (hi : i ∈ straightOps) (h : exec i s = .next t) : s.Advances t := by
  simp only [straightOps, List.mem_cons, List.not_mem_nil, or_false] at hi
  rcases hi with rfl | rfl | rfl | rfl | rfl | rfl | rfl | rfl | rfl | rfl | rfl | rfl | rfl | rfl <;>
    obtain rfl := next_eq.1 h <;> exact ⟨rfl, rfl, rfl, rfl, rfl⟩

/-- The fixed program has the micro-op at this place (42_sequencing.md R246), sorted by what it does to the output. -/
def RunsAt (u : Nat) (i : Instr) : Prop :=
  (i ∈ straightOps ∧ (u = 0x00 ∨ (0x05 ≤ u ∧ u ≤ 0x10) ∨ (0x12 ≤ u ∧ u ≤ 0x13))) ∨
  (i = .txClaim ∧ (u = 0x01 ∨ u = 0x14 ∨ u = 0x19)) ∨
  (i = .txLoadBanner ∧ u = 0x02) ∨ (i = .txLoadHex ∧ u = 0x15) ∨ (i = .txLoadCrlf ∧ u = 0x1A) ∨
  (i = .txWaitRdy ∧ (u = 0x03 ∨ u = 0x16 ∨ u = 0x1B)) ∨
  (i = .txPush0 ∧ (u = 0x04 ∨ u = 0x17 ∨ u = 0x1C)) ∨
  (i = .loopWord 0x07#8 ∧ u = 0x11) ∨ (i = .loopTok 0x14#8 ∧ u = 0x18) ∨ (i = .loopRow 0x05#8 ∧ u = 0x1D) ∨
  (i = .idle ∧ u = 0x1E)

theorem runsAt_programOps : ∀ u : Fin 31, RunsAt u (programOps.getD u .idle) := by
  unfold RunsAt
  decide

/-- A micro-op that moves no unit and goes on to the next place keeps the output invariant, if it neither enters nor
leaves the wait for the first push and is not at the end of the token loop. -/
theorem output_of_advance (hi : i ∉ [Instr.txLoadBanner, .txLoadHex, .txLoadCrlf, .txPush0, .txc])
    (h : exec i s = .next t) (hadv : s.Advances t) (hle : s.upc.toNat ≤ 0x1C)
    (hplace : ¬ (s.AtLoad ∨ s.AtPush ∨ s.At 0x18 0x18)) (htok : s.At 0x13 0x13 → s.tok = 0#5)
    (ho : s.Output) : t.Output := by
  have hupc : t.upc.toNat = s.upc.toNat + 1 := by rw [hadv.upc, index_succ_toNat (by omega)]
  have hwait : t.AtWait ∨ t.AtPush ↔ s.AtWait ∨ s.AtPush := by omega
  exact (sameUnits_of_exec hi h).output hwait (hadv.loaded (by omega) (by omega) htok) ho

/-- TX_CLAIM keeps the output invariant: it spins, or goes on to the load. -/
theorem output_of_claim (hat : s.upc.toNat = 0x01 ∨ s.upc.toNat = 0x14 ∨ s.upc.toNat = 0x19) (ho : s.Output)
    (h : exec .txClaim s = .next t) : t.Output := by
  rcases execTxClaim_next.1 h with ⟨-, rfl⟩ | ⟨-, rfl⟩
  · exact ho
  · exact output_of_advance (by decide) h ⟨rfl, rfl, rfl, rfl, rfl⟩ (by omega) (by omega) (by omega) ho

/-- TX_WAIT_RDY keeps the output invariant: it spins, or goes on to the push. -/
theorem output_of_wait (hat : s.upc.toNat = 0x03 ∨ s.upc.toNat = 0x16 ∨ s.upc.toNat = 0x1B) (ho : s.Output)
    (h : exec .txWaitRdy s = .next t) : t.Output := by
  rcases execTxWaitRdy_next.1 h with ⟨-, rfl⟩ | ⟨-, rfl⟩
  · exact output_of_advance (by decide) h ⟨rfl, rfl, rfl, rfl, rfl⟩ (by omega) (by omega) (by omega) ho
  · exact ho

/-- With nothing busy every unit loaded is on the line. -/
theorem State.Pipeline.unsent_eq_nil (hp : s.Pipeline) (hbusy : s.busy = false) : s.unsent = [] := by
  have hwait : ¬ (s.AtWait ∨ s.AtPush) := fun h => absurd ((hp.beforePush h).1.symm.trans hbusy) nofun
  obtain ⟨hflight, -⟩ := hp.notBusy hbusy
  rw [State.unsent_of_not_waiting hwait, hflight, hp.drained hbusy]
  rfl

/-- A load keeps the output invariant when the place after it counts the message as loaded: it finds every earlier unit
on the line. -/
theorem output_of_load {sel : Selector} (hat : s.upc.toNat = 0x02 ∨ s.upc.toNat = 0x15 ∨ s.upc.toNat = 0x1A)
    (hp : s.Pipeline) (ho : s.Output)
    (hloaded : (s.fill (s.message sel)).advance.upc.toNat = s.upc.toNat + 1 →
      (s.fill (s.message sel)).advance.loaded = s.loaded ++ s.message sel)
    (h : loadMessage (s.message sel) s = .next t) : t.Output := by
  rcases loadMessage_next.1 h with ⟨-, rfl⟩ | ⟨-, -, rfl⟩ | ⟨hbusy, -, rfl⟩
  · exact ho
  · exact ho
  · have hupc : (s.fill (s.message sel)).advance.upc.toNat = s.upc.toNat + 1 :=
      index_succ_toNat (x := s.upc) (by omega)
    have hunits : (s.fill (s.message sel)).advance.unsent = s.message sel := by
      have hlen : (s.message sel).length - 1 + 1 = (s.message sel).length := by have := length_message s sel; omega
      rw [State.unsent_of_waiting (by omega)]
      change (s.fill (s.message sel)).txUnits 0 ((s.message sel).length - 1 + 1) = s.message sel
      rw [hlen, State.txUnits_fill]
    have hline : s.line = s.loaded := by rw [← ho, hp.unsent_eq_nil hbusy, List.append_nil]
    rw [State.Output, hunits, hloaded hupc, ← hline]
    rfl

/-- The banner comes first. -/
theorem output_of_loadBanner (hat : s.upc.toNat = 0x02) (hp : s.Pipeline) (ho : s.Output)
    (h : exec .txLoadBanner s = .next t) : t.Output := by
  refine output_of_load (sel := .banner) (by omega) hp ho (fun hupc => ?_) h
  have hrow : (s.fill (s.message .banner)).advance.row = 0#16 := hp.beforeRows (by omega)
  rw [State.loaded_reading (by omega), State.loaded_of_le (by omega), hrow]
  rfl

/-- A token follows the tokens before it, and is that of the byte captured at its position. -/
theorem output_of_loadHex (hat : s.upc.toNat = 0x15) (hp : s.Pipeline) (hw : s.Walk) (hm : s.marginMet = true)
    (ho : s.Output) (h : exec .txLoadHex s = .next t) : t.Output := by
  refine output_of_load (sel := .hex) (by omega) hp ho (fun hupc => ?_) h
  have hcaptured : s.captured = 32 := by simp [State.captured, hat]
  have hbyte : s.capAt (tokIndex s.tok) = s.rowByte s.row.toNat s.tok.toNat :=
    hw.bytes hm (tokIndex s.tok) (by rw [hcaptured]; exact s.tok.isLt)
  have hmessage : s.message .hex = hexToken (s.rowByte s.row.toNat s.tok.toNat) := congrArg hexToken hbyte
  rw [State.loaded_inToken (by omega), State.loaded_atToken (by omega), State.stream_congr (s := s) rfl,
    State.rowTokens_congr (s := s) rfl, List.append_assoc, hmessage, ← State.rowTokens_succ]
  rfl

/-- The line terminator follows the tokens of the row. -/
theorem output_of_loadCrlf (hat : s.upc.toNat = 0x1A) (hp : s.Pipeline) (ho : s.Output)
    (h : exec .txLoadCrlf s = .next t) : t.Output := by
  refine output_of_load (sel := .crlf) (by omega) hp ho (fun hupc => ?_) h
  rw [State.loaded_inCrlf (by omega), State.loaded_atCrlf (by omega), State.stream_congr (s := s) rfl]
  exact s.stream_succ s.row.toNat

/-- TX_PUSH0 keeps the output invariant: the message's first unit is in flight, and the rest is pending. -/
theorem output_of_push (hat : s.upc.toNat = 0x04 ∨ s.upc.toNat = 0x17 ∨ s.upc.toNat = 0x1C) (hp : s.Pipeline)
    (ho : s.Output) (h : exec .txPush0 s = .next t) : t.Output := by
  rcases execTxPush0_next.1 h with ⟨-, rfl⟩ | ⟨-, hpush⟩
  · exact ho
  · rcases serPush_next.1 hpush with ⟨-, -, rfl⟩ | ⟨-, rfl⟩
    · have hupc : (s.push (s.txAt 0)).advance.upc.toNat = s.upc.toNat + 1 :=
        index_succ_toNat (x := s.upc) (by omega)
      have hs : s.AtWait ∨ s.AtPush := by omega
      obtain ⟨-, hcursor, -, -, -⟩ := hp.beforePush hs
      have hadv : s.Advances (s.push (s.txAt 0)).advance := ⟨rfl, rfl, rfl, rfl, rfl⟩
      have hunsent : (s.push (s.txAt 0)).advance.unsent = s.unsent := by
        rw [State.unsent_of_not_waiting (by omega), State.unsent_of_waiting hs, State.txUnits_succ, Nat.zero_add,
          ← hcursor]
        rfl
      rw [State.Output, hunsent, hadv.loaded (by omega) (by omega) (by omega), ← ho]
      rfl
    · exact ho

/-- LOOP_WORD keeps the output invariant: it sends nothing. -/
theorem output_of_loopWord (hat : s.upc.toNat = 0x11) (ho : s.Output) (h : exec (.loopWord 0x07#8) s = .next t) :
    t.Output := by
  have hunits := sameUnits_of_exec (by decide) h
  rcases execLoopWord_next.1 h with ⟨-, rfl⟩ | ⟨-, rfl⟩
  · exact output_of_advance (by decide) h ⟨rfl, rfl, rfl, rfl, rfl⟩ (by omega) (by omega) (by omega) ho
  · have hupc : ((s.setWord (s.word + 1#4)).branch (branchTarget 0x07#8)).upc.toNat = 0x07 := rfl
    refine hunits.output (by omega) ?_ ho
    rw [State.loaded_reading (by omega), State.loaded_reading (by omega)]
    rfl

/-- LOOP_TOK keeps the output invariant: the token just sent is the last before the next one, or the row's last. -/
theorem output_of_loopTok (hat : s.upc.toNat = 0x18) (ho : s.Output) (h : exec (.loopTok 0x14#8) s = .next t) :
    t.Output := by
  have hunits := sameUnits_of_exec (by decide) h
  rcases execLoopTok_next.1 h with ⟨hlast, rfl⟩ | ⟨hmore, rfl⟩
  · have hupc : (s.setTok 0#5).advance.upc.toNat = s.upc.toNat + 1 := index_succ_toNat (x := s.upc) (by omega)
    refine hunits.output (by omega) ?_ ho
    rw [State.loaded_atCrlf (by omega), State.loaded_inToken (by omega), hlast]
    rfl
  · have hupc : ((s.setTok (s.tok + 1#5)).branch (branchTarget 0x14#8)).upc.toNat = 0x14 := rfl
    refine hunits.output (by omega) ?_ ho
    rw [State.loaded_atToken (by omega), State.loaded_inToken (by omega), ← tok_succ_toNat hmore]
    rfl

/-- LOOP_ROW keeps the output invariant: the line just sent is the last before the next row's, or the last of all. -/
theorem output_of_loopRow (hat : s.upc.toNat = 0x1D) (hs : s.Fixed) (hrow : s.row.toNat < s.params.numRows)
    (ho : s.Output) (h : exec (.loopRow 0x05#8) s = .next t) : t.Output := by
  have hunits := sameUnits_of_exec (by decide) h
  rcases execLoopRow_next.1 h with ⟨hlast, rfl⟩ | ⟨hmore, rfl⟩
  · have hupc : (s.setRow 0#16).advance.upc.toNat = s.upc.toNat + 1 := index_succ_toNat (x := s.upc) (by omega)
    refine hunits.output (by omega) ?_ ho
    rw [State.loaded_atEnd (by omega), State.loaded_inCrlf (by omega), hlast]
    rfl
  · have hupc : ((s.setRow (s.row + 1#16)).branch (branchTarget 0x05#8)).upc.toNat = 0x05 := rfl
    obtain ⟨-, hrows, -, -⟩ := hs.legal
    have hnext : (s.row + 1#16).toNat = s.row.toNat + 1 := by bv_omega
    refine hunits.output (by omega) ?_ ho
    rw [State.loaded_reading (by omega), State.loaded_inCrlf (by omega), ← hnext]
    rfl

/-! ### The three agents -/

/-- Every SEQ step keeps the output invariant: place by place of the fixed program. -/
theorem output_of_seqStep (hs : s.Fixed) (hp : s.Pipeline) (hw : s.Walk) (hm : s.marginMet = true) (ho : s.Output)
    (h : seqStep s = .next t) : t.Output := by
  have hplace : RunsAt s.upc.toNat (programOps.getD s.upc.toNat .idle) :=
    runsAt_programOps ⟨s.upc.toNat, Nat.lt_succ_of_le hs.inProgram⟩
  rw [seqStep_fixed hs.store hs.inProgram] at h
  generalize programOps.getD s.upc.toNat .idle = i at hplace h
  rcases hplace with ⟨hi, hat⟩ | ⟨rfl, hat⟩ | ⟨rfl, hat⟩ | ⟨rfl, hat⟩ | ⟨rfl, hat⟩ | ⟨rfl, hat⟩ | ⟨rfl, hat⟩ |
    ⟨rfl, hat⟩ | ⟨rfl, hat⟩ | ⟨rfl, hat⟩ | ⟨rfl, -⟩
  · have hquiet : ∀ i ∈ straightOps, i ∉ [Instr.txLoadBanner, .txLoadHex, .txLoadCrlf, .txPush0, .txc] := by decide
    exact output_of_advance (hquiet i hi) h (advances_of_exec hi h) (by omega) (by omega)
      (fun h13 => hp.noToken (by omega)) ho
  · exact output_of_claim hat ho h
  · exact output_of_loadBanner hat hp ho h
  · exact output_of_loadHex hat hp hw hm ho h
  · exact output_of_loadCrlf hat hp ho h
  · exact output_of_wait hat ho h
  · exact output_of_push hat hp ho h
  · exact output_of_loopWord hat ho h
  · exact output_of_loopTok hat ho h
  · exact output_of_loopRow hat hs hw.rowInRange ho h
  · obtain rfl := next_eq.1 h
    exact ho

/-- A handler invocation keeps the output invariant: it puts the unit at the cursor in flight, or finds none. -/
theorem output_of_execTxc (hp : s.Pipeline) (hpend : s.tcPend = true) (ho : s.Output) (h : execTxc s = .next t) :
    t.Output := by
  have hwait : ¬ (s.AtWait ∨ s.AtPush) := fun hat => by
    obtain ⟨-, -, -, -, hoff⟩ := hp.beforePush hat
    exact absurd (hpend.symm.trans hoff) nofun
  rcases execTxc_next.1 h with ⟨-, -, rfl⟩ | ⟨hpos, -, hpush⟩ | ⟨-, rfl⟩
  · exact ho
  · rcases serPush_next.1 hpush with ⟨-, hfree, rfl⟩ | ⟨-, rfl⟩
    · have hunsent : s.unsent = s.txAt s.cursor :: s.txUnits (s.cursor + 1) (s.pending - 1) := by
        rw [State.unsent_of_not_waiting hwait, hfree, ← State.txUnits_succ, Nat.sub_add_cancel hpos]
        rfl
      have hrest : (s.push (s.txAt s.cursor)).enterHandler.popUnit.leaveHandler.unsent = s.unsent := by
        rw [hunsent]
        exact State.unsent_of_not_waiting hwait
      rw [State.Output, hrest]
      exact ho
    · exact ho
  · exact ho

/-- A step of the transmitter keeps the output invariant: a shift moves the unit in flight onto the line. -/
theorem output_of_serStep (hp : s.Pipeline) (ho : s.Output) (h : serStep s = .next t) : t.Output := by
  rcases serStep_next.1 h with ⟨u, -, -, rfl⟩ | ⟨u, hflight, -, rfl⟩ | ⟨-, rfl⟩
  · exact ho
  · have hwait : ¬ (s.AtWait ∨ s.AtPush) := fun hat => by
      obtain ⟨-, -, -, hfree, -⟩ := hp.beforePush hat
      exact absurd (hflight.symm.trans hfree) nofun
    have hunsent : s.unsent = u :: (s.shiftOut u).unsent := by
      rw [State.unsent_of_not_waiting hwait, State.unsent_of_not_waiting (s := s.shiftOut u) hwait, hflight]
      rfl
    rw [State.Output, State.shiftOut_line, List.append_assoc, List.singleton_append, ← hunsent]
    exact ho
  · exact ho

/-- Settles O50: the three agents keep the invariant, and passing the turn touches nothing it looks at. -/
theorem outputInvariantIsKept : Obligations.OutputInvariantIsKept := by
  intro s t hs hp hw hm ho h
  obtain ⟨-, u, rfl, hu⟩ := step_next h
  have hkept : u.Output := by
    rcases hu with ⟨-, hseq⟩ | ⟨-, hpend, -, htxc⟩ | ⟨-, -, hser⟩
    · exact output_of_seqStep hs hp hw (decide_eq_true hm) ho hseq
    · exact output_of_execTxc hp hpend ho htxc
    · exact output_of_serStep hp ho hser
  exact hkept

/-! ### The line and the dump (42_sequencing.md R257) -/

/-- The first tokens of a row are the beginning of its tokens. -/
theorem State.rowTokens_isPrefix (s : State) (r : Nat) {m n : Nat} (h : m ≤ n) :
    s.rowTokens r m <+: s.rowTokens r n := by
  induction h with
  | refl => exact List.prefix_rfl
  | step _ ih => exact ih.trans (by rw [State.rowTokens_succ]; exact List.prefix_append _ _)

/-- The first lines are the beginning of the stream. -/
theorem State.stream_isPrefix (s : State) {m n : Nat} (h : m ≤ n) : s.stream m <+: s.stream n := by
  induction h with
  | refl => exact List.prefix_rfl
  | step _ ih => exact ih.trans (by rw [State.stream_succ, List.append_assoc]; exact List.prefix_append _ _)

/-- The lines before a row and its first tokens are the beginning of the stream up to that row. -/
theorem State.tokens_isPrefix (s : State) (r : Nat) {k : Nat} (h : k ≤ 32) :
    s.stream r ++ s.rowTokens r k <+: s.stream (r + 1) := by
  rw [State.stream_succ]
  exact ((List.prefix_append_right_inj _).2 (s.rowTokens_isPrefix r h)).trans (List.prefix_append _ _)

/-- The messages loaded so far are the beginning of the dump. -/
theorem State.loaded_isPrefix (hrow : s.row.toNat < s.params.numRows) : s.loaded <+: s.stream s.params.numRows := by
  have htok := s.tok.isLt
  unfold State.loaded
  split_ifs
  · exact List.nil_prefix
  · exact s.stream_isPrefix hrow.le
  · exact (s.tokens_isPrefix _ htok.le).trans (s.stream_isPrefix hrow)
  · exact (s.tokens_isPrefix _ htok).trans (s.stream_isPrefix hrow)
  · exact (s.tokens_isPrefix _ le_rfl).trans (s.stream_isPrefix hrow)
  · exact s.stream_isPrefix hrow
  · exact List.prefix_rfl

/-- Settles O52: the line is the beginning of what is loaded, and at the end nothing is unsent and all is loaded. -/
theorem lineIsAPrefixOfTheDump : Obligations.LineIsAPrefixOfTheDump := by
  intro s _ hp hw ho
  refine ⟨(ho ▸ List.prefix_append _ _ : s.line <+: s.loaded).trans (State.loaded_isPrefix hw.rowInRange), ?_⟩
  rintro ⟨hupc, hbusy, -, -, -⟩
  calc s.line
    _ = s.line ++ s.unsent := by rw [hp.unsent_eq_nil hbusy, List.append_nil]
    _ = s.loaded := ho
    _ = s.stream s.params.numRows := State.loaded_atEnd (by rw [hupc]; decide)

end Sys2Proof.Machine
end

section
/-!
The transmit family: the transmit micro-ops, the completion handler, the pipeline invariant of the fixed micro-program
and the canonical form of the listed byte spaces (40_transmit_pipeline.md R162 to R170).
-/
namespace Sys2Proof.Machine
variable {i : Instr} {s t : State}

/-! ### The canonical form of the byte spaces (40_transmit_pipeline.md R164, 20_memory.md R80) -/

theorem State.memWf_iff :
    s.memWf = true ↔ Memory.wf programByte (2 * Config.csWords) s.cs = true ∧
      Memory.wf Config.romByte (2 * Config.addrSpace) s.rom = true ∧
      Memory.wf txDefault s.params.txbufCap s.txbuf = true := by
  simp only [State.memWf, Bool.and_eq_true, and_assoc]

/-- A load keeps the canonical form: it writes the buffer only when the message fits. -/
theorem loadMessage_memWf {m : List Byte} (hs : s.memWf = true) (h : loadMessage m s = .next t) : t.memWf = true := by
  rcases loadMessage_next.1 h with ⟨-, rfl⟩ | ⟨-, -, rfl⟩ | ⟨-, hfit, rfl⟩
  · exact hs
  · exact hs
  · obtain ⟨hcs, hrom, hbuf⟩ := State.memWf_iff.1 hs
    exact State.memWf_iff.2 ⟨hcs, hrom, Memory.wf_writeAll ((Nat.zero_add _).trans_le hfit) hbuf⟩

/-- Every micro-op and the handler's action keep the canonical form: the loads alone write a byte space. -/
theorem exec_memWf (hs : s.memWf = true) (h : exec i s = .next t) : t.memWf = true := by
  have w := exec_writesAsListed h
  rcases w.txbuf with hbuf | hload
  · rwa [State.memWf, w.cs, w.rom, w.params, hbuf]
  · obtain ⟨sel, hsel⟩ := exec_of_mem_loads hload s
    exact loadMessage_memWf hs (hsel ▸ h)

/-- Settles O35: a micro-op keeps the form, and no other kind of write touches a byte space. -/
theorem memoryStaysCanonical : Obligations.MemoryStaysCanonical := by
  intro s t hs
  exact step_keeps (P := fun u => u.memWf = true) (fun _ _ hu => hu) (fun _ => hs) (fun _ _ => exec_memWf hs)
    (fun _ => hs) hs

/-! ### The transmit micro-ops (40_transmit_pipeline.md R162 to R166) -/

/-- Settles O21: SER_INIT has one case. -/
theorem serInitTurnsTransmitterOn : Obligations.SerInitTurnsTransmitterOn := ⟨rfl, exec_serInit⟩

/-- Settles O22: the two cases of TX_CLAIM. -/
theorem claimSpinsWhileBusy : Obligations.ClaimSpinsWhileBusy :=
  ⟨rfl, fun _ hbusy => execTxClaim_next.2 (.inl ⟨hbusy, rfl⟩), fun _ hfree => execTxClaim_next.2 (.inr ⟨hfree, rfl⟩)⟩

/-- The three cases of a load, with `TXBUF` given by what its indexes read. -/
theorem loadMessage_spec (m : List Byte) (s : State) :
    (s.busy = true → loadMessage m s = .next { s with fault := some (.loadWhileBusy s.upc) }) ∧
    (s.busy = false → s.params.txbufCap < m.length →
      loadMessage m s = .next { s with fault := some (.msgOverflow s.upc m.length) }) ∧
    (s.busy = false → m.length ≤ s.params.txbufCap →
      ∃ t, loadMessage m s = .next t ∧ (∀ k, t.txAt k = m.getD k (s.txAt k)) ∧
        t = { s with txbuf := t.txbuf, pending := m.length - 1, cursor := 1, busy := true, upc := s.upc + 1#6 }) := by
  refine ⟨fun hbusy => ?_, fun hfree hlong => ?_, fun hfree hfit => ?_⟩
  · exact loadMessage_next.2 (.inl ⟨hbusy, rfl⟩)
  · exact loadMessage_next.2 (.inr (.inl ⟨hfree, hlong, rfl⟩))
  · exact ⟨(s.fill m).advance, loadMessage_next.2 (.inr (.inr ⟨hfree, hfit, rfl⟩)), s.txAt_fill m, rfl⟩

/-- Settles O23: each TX_LOAD is the load of its message. -/
theorem loadFillsTheBuffer : Obligations.LoadFillsTheBuffer := by
  refine ⟨⟨rfl, rfl, rfl⟩, fun s i m him => ?_⟩
  obtain ⟨sel, rfl, hexec⟩ : ∃ sel, m = s.message sel ∧ exec i s = loadMessage m s := by
    simp only [List.mem_cons, List.not_mem_nil, or_false, Prod.mk.injEq] at him
    rcases him with ⟨rfl, rfl⟩ | ⟨rfl, rfl⟩ | ⟨rfl, rfl⟩
    · exact ⟨.banner, rfl, rfl⟩
    · exact ⟨.hex, rfl, rfl⟩
    · exact ⟨.crlf, rfl, rfl⟩
  rw [hexec]
  exact ⟨length_message s sel, loadMessage_spec (s.message sel) s⟩

/-- A push to a transmitter that is not ready leaves it as it was. -/
theorem serPush_of_not_ready {who : Agent} {u : Byte} {f : State → State} (hs : s.ready = false)
    (h : serPush who u f s = .next t) : t.ready = s.ready ∧ t.inflight = s.inflight := by
  rcases serPush_next.1 h with ⟨hready, -, -⟩ | ⟨-, rfl⟩
  · exact absurd (hs.symm.trans hready) nofun
  · exact ⟨rfl, rfl⟩

/-- No micro-op makes the transmitter ready, and none gives a unit to a transmitter that is not ready. -/
theorem exec_of_not_ready (hs : s.ready = false) (h : exec i s = .next t) :
    t.ready = s.ready ∧ t.inflight = s.inflight := by
  rcases (exec_writesAsListed h).transmitter with hsame | hi
  · exact hsame
  · simp only [List.mem_cons, List.not_mem_nil, or_false] at hi
    rcases hi with rfl | rfl
    · rcases execTxPush0_next.1 h with ⟨-, rfl⟩ | ⟨-, hpush⟩
      · exact ⟨rfl, rfl⟩
      · exact serPush_of_not_ready hs hpush
    · rcases execTxc_next.1 h with ⟨-, -, rfl⟩ | ⟨-, -, hpush⟩ | ⟨-, rfl⟩
      · exact ⟨rfl, rfl⟩
      · exact serPush_of_not_ready hs hpush
      · exact ⟨rfl, rfl⟩

/-- Before SER_INIT no step makes an empty transmitter ready or gives it a unit (R165). -/
theorem step_of_serOff (hoff : s.serOn = false) (hready : s.ready = false) (hempty : s.inflight = none)
    (h : step s = .next t) : t.ready = false ∧ t.inflight = none := by
  obtain ⟨-, u, rfl, hu⟩ := step_next h
  have hsame : u.ready = s.ready ∧ u.inflight = s.inflight := by
    rcases hu with ⟨-, hseq⟩ | ⟨-, -, -, htxc⟩ | ⟨-, henabled, -⟩
    · rcases seqStep_next.1 hseq with ⟨i, -, he⟩ | ⟨-, -, rfl⟩
      · exact exec_of_not_ready hready he
      · exact ⟨rfl, rfl⟩
    · exact exec_of_not_ready (i := .txc) hready htxc
    · simp [hoff, hempty] at henabled
  exact ⟨hsame.1.trans hready, hsame.2.trans hempty⟩

/-- Settles O24: the two cases of TX_WAIT_RDY; and a transmitter that is off has no step of its own. -/
theorem waitSpinsUntilReady : Obligations.WaitSpinsUntilReady :=
  ⟨rfl, fun _ hready => execTxWaitRdy_next.2 (.inl ⟨hready, rfl⟩),
    fun _ hready => execTxWaitRdy_next.2 (.inr ⟨hready, rfl⟩), fun _ _ => step_of_serOff⟩

/-- Settles O25: the check of `BUSY`, then the two cases of the push. -/
theorem firstUnitPush : Obligations.FirstUnitPush := by
  refine ⟨rfl, fun s hfree => ?_, fun s hbusy hover => ?_, fun s hbusy hready hempty => ?_⟩
  · exact execTxPush0_next.2 (.inl ⟨hfree, rfl⟩)
  · exact execTxPush0_next.2 (.inr ⟨hbusy, serPush_next.2 (.inr ⟨hover, rfl⟩)⟩)
  · exact execTxPush0_next.2 (.inr ⟨hbusy, serPush_next.2 (.inl ⟨hready, hempty, rfl⟩)⟩)

/-! ### The completion handler (40_transmit_pipeline.md R167, R168) -/

/-- With nothing pending the handler clears `BUSY`. -/
theorem execTxc_of_drained (h : s.pending = 0) : execTxc s = .next { s with tcPend := false, busy := false } :=
  execTxc_next.2 (.inr (.inr ⟨h, rfl⟩))

/-- With a unit pending and the transmitter ready and empty the handler pushes the unit at the cursor. -/
theorem execTxc_of_pending (hpos : 0 < s.pending) (hcursor : s.cursor < s.params.txbufCap) (hready : s.ready = true)
    (hempty : s.inflight = none) :
    execTxc s = .next (s.push (s.txAt s.cursor)).enterHandler.popUnit.leaveHandler :=
  execTxc_next.2 (.inr (.inl ⟨hpos, hcursor, serPush_next.2 (.inl ⟨hready, hempty, rfl⟩)⟩))

/-- Settles O26: the handler's four cases. -/
theorem handlerInvocation : Obligations.HandlerInvocation := by
  refine ⟨rfl, by decide, fun s => ?_, fun s => execTxc_of_drained, fun s hpos hrange => ?_,
    fun s hpos hcursor hover => ?_, fun s => execTxc_of_pending⟩
  · simp [State.txcEnabled, and_assoc]
  · exact execTxc_next.2 (.inl ⟨hpos, hrange, rfl⟩)
  · exact execTxc_next.2 (.inr (.inl ⟨hpos, hcursor, serPush_next.2 (.inr ⟨hover, rfl⟩)⟩))

/-- The state after one round: the handler has pushed the unit at the cursor and the transmitter has shifted it. -/
def State.sendUnit (s : State) : State :=
  (s.push (s.txAt s.cursor)).enterHandler.popUnit.leaveHandler.shiftOut (s.txAt s.cursor)

/-- One round with a unit pending and the transmitter ready and empty sends the unit at the cursor. -/
theorem drainRound (hpos : 0 < s.pending) (hcursor : s.cursor < s.params.txbufCap) (hready : s.ready = true)
    (hempty : s.inflight = none) : andThen (exec .txc s) serStep = .next s.sendUnit := by
  rw [exec_txc, execTxc_of_pending hpos hcursor hready hempty, andThen, serStep_next]
  exact .inr (.inl ⟨s.txAt s.cursor, rfl, rfl, rfl⟩)

/-- Settles O47: by induction on the units pending, each of which one round sends. -/
theorem handlerDrainsTheMessage : Obligations.HandlerDrainsTheMessage := by
  intro n
  induction n with
  | zero =>
    intro s hpending hnotified _ hempty _
    exact ⟨s, rfl, (List.append_nil _).symm, hpending, rfl, rfl, hnotified, rfl, execTxc_of_drained hpending, hempty⟩
  | succ k ih =>
    intro s hpending _ hready hempty hcap
    obtain ⟨t, hrun, hline, hdrained, hcursor, hbusy, hnotified, hupc, hlast, hfree⟩ :=
      ih s.sendUnit (show s.pending - 1 = k by omega) rfl rfl rfl
        (show s.cursor + 1 + k ≤ s.params.txbufCap by omega)
    refine ⟨t, ?_, ?_, hdrained, hcursor.trans (Nat.add_right_comm s.cursor 1 k), hbusy, hnotified, hupc, hlast, hfree⟩
    · rw [drainRounds, drainRound (by omega) (by omega) hready hempty]
      exact hrun
    · rw [hline, State.txUnits_succ]
      exact List.append_assoc s.line [s.txAt s.cursor] _

/-! ### The pipeline invariant (40_transmit_pipeline.md R170)

`At`, `AtLoad`, `AtWait` and `AtPush` are bounds on `upc`, so `omega` decides from where `upc` is which of them hold. -/

/-- `t` has the transmit state, the control store, the fault mark and the parameters of `s`. -/
structure State.SameTransmit (s t : State) : Prop where
  busy : t.busy = s.busy
  pending : t.pending = s.pending
  cursor : t.cursor = s.cursor
  im : t.im = s.im
  ready : t.ready = s.ready
  inflight : t.inflight = s.inflight
  tcPend : t.tcPend = s.tcPend
  cs : t.cs = s.cs
  fault : t.fault = s.fault
  params : t.params = s.params

/-- Only the transmit micro-ops and the handler write the transmit state or mark a fault. -/
theorem sameTransmit_of_exec (hi : i ∉ [Instr.txClaim, .txLoadBanner, .txLoadHex, .txLoadCrlf, .txPush0, .txc])
    (h : exec i s = .next t) : s.SameTransmit t := by
  have w := exec_writesAsListed h
  simp only [List.mem_cons, List.not_mem_nil, or_false, not_or] at hi
  obtain ⟨hclaim, hbanner, hhex, hcrlf, hpush, htxc⟩ := hi
  obtain ⟨hpending, hcursor⟩ := w.counters.resolve_right (by simp [*])
  obtain ⟨hready, hinflight⟩ := w.transmitter.resolve_right (by simp [*])
  exact {
    busy := w.busy.resolve_right (by simp [*]), pending := hpending, cursor := hcursor
    im := w.im.resolve_right hclaim, ready := hready, inflight := hinflight, tcPend := w.tcPend.resolve_right htxc
    cs := w.cs, fault := w.fault.resolve_right (by simp [*]), params := w.params }

/-- The place and the counters of `t` ask no more of the transmit state than those of `s`: a TX_LOAD is entered with
`BUSY` clear, a TX_WAIT_RDY or a TX_PUSH0 from one another only, a TX_PUSH0 with `READY` set; and the length of the last
message is the same. A field with a default is one that bounds on `upc` alone decide in most uses. -/
structure State.MayMove (s t : State) : Prop where
  inProgram : t.upc.toNat ≤ 0x1E := by omega
  rowInRange : t.row.toNat < s.params.numRows
  beforeRows : t.At 0x00 0x04 → t.row = 0#16 := by omega
  noToken : ¬ t.At 0x14 0x18 → t.tok = 0#5 := by omega
  lastLength : t.lastLength = s.lastLength
  load : t.AtLoad → s.busy = false := by omega
  wait : t.AtWait ∨ t.AtPush → s.AtWait ∨ s.AtPush := by omega
  push : t.AtPush → s.ready = true := by omega
  started : 0x05 ≤ t.upc.toNat → 0x05 ≤ s.upc.toNat := by omega

/-- A step that leaves the transmit state keeps the two invariants if the new place asks no more of it. -/
theorem State.SameTransmit.pipeline (h : s.SameTransmit t) (hmove : s.MayMove t) (hs : s.Fixed) (hp : s.Pipeline) :
    t.Fixed ∧ t.Pipeline := by
  refine ⟨⟨h.cs.trans hs.store, h.fault.trans hs.noFault, hmove.inProgram, h.params ▸ hs.legal⟩, ?_⟩
  constructor
  case rowInRange => rw [h.params]; exact hmove.rowInRange
  case beforeRows => exact hmove.beforeRows
  case noToken => exact hmove.noToken
  case unmasked => rw [h.im]; exact hp.unmasked
  case notBusy => rw [h.busy, h.inflight, h.tcPend]; exact hp.notBusy
  case drained => rw [h.busy, h.pending]; exact hp.drained
  case inFlight => rw [h.inflight, h.tcPend, h.ready]; exact hp.inFlight
  case notified => rw [h.tcPend, h.busy, h.ready]; exact hp.notified
  case counts => rw [h.busy, h.cursor, h.pending, h.params, hmove.lastLength]; exact hp.counts
  case atLoad => rw [h.busy]; exact hmove.load
  case beforePush =>
    rw [h.busy, h.cursor, h.pending, h.inflight, h.tcPend, hmove.lastLength]
    exact fun hat => hp.beforePush (hmove.wait hat)
  case readyAtPush => rw [h.ready]; exact hmove.push
  case readyOnceStarted => rw [h.inflight, h.ready]; exact fun hat => hp.readyOnceStarted (hmove.started hat)

/-- The length of the last message depends on the place only through the TX_LOADs of the banner and of a token. -/
theorem State.lastLength_congr
    (hupc : (t.upc.toNat ≤ 0x02 ↔ s.upc.toNat ≤ 0x02) ∧ (t.upc.toNat ≤ 0x15 ↔ s.upc.toNat ≤ 0x15))
    (hrow : t.row = s.row) (htok : t.tok = s.tok) : t.lastLength = s.lastLength := by
  simp only [State.lastLength_eq, hupc.1, hupc.2, hrow, htok]

/-- Going on to the next place without touching the transmit state keeps the two invariants, except from the place of a
TX_LOAD, a TX_PUSH0, LOOP_TOK or LOOP_ROW; from a TX_CLAIM with `BUSY` clear, from a TX_WAIT_RDY with `READY` set. -/
theorem State.SameTransmit.pipeline_of_advances (h : s.SameTransmit t) (hadv : s.Advances t) (hs : s.Fixed)
    (hp : s.Pipeline) (hle : s.upc.toNat ≤ 0x1C) (hplace : ¬ (s.AtLoad ∨ s.AtPush ∨ s.At 0x18 0x18))
    (hclaim : s.upc.toNat = 0x01 ∨ s.upc.toNat = 0x14 ∨ s.upc.toNat = 0x19 → s.busy = false)
    (hready : s.AtWait → s.ready = true) : t.Fixed ∧ t.Pipeline := by
  have hupc : t.upc.toNat = s.upc.toNat + 1 := by rw [hadv.upc, index_succ_toNat (by omega)]
  exact h.pipeline {
    rowInRange := by rw [hadv.row]; exact hp.rowInRange
    beforeRows := by rw [hadv.row]; exact fun hat => hp.beforeRows (by omega)
    noToken := by rw [hadv.tok]; exact fun hat => hp.noToken (by omega)
    lastLength := State.lastLength_congr (by omega) hadv.row hadv.tok
    load := fun hat => hclaim (by omega)
    push := fun hat => hready (by omega) } hs hp

/-! ### The sequencer's steps -/

/-- TX_CLAIM spins, or goes on to the load with `BUSY` clear. -/
theorem pipeline_of_claim (hat : s.upc.toNat = 0x01 ∨ s.upc.toNat = 0x14 ∨ s.upc.toNat = 0x19) (hs : s.Fixed)
    (hp : s.Pipeline) (h : exec .txClaim s = .next t) : t.Fixed ∧ t.Pipeline := by
  have hmask : s.setIm false = s := by rw [State.setIm, ← hp.unmasked]
  rcases execTxClaim_next.1 h with ⟨-, rfl⟩ | ⟨hfree, rfl⟩ <;> rw [hmask]
  · exact ⟨hs, hp⟩
  · have hsame : s.SameTransmit s.advance := ⟨rfl, rfl, rfl, rfl, rfl, rfl, rfl, rfl, rfl, rfl⟩
    exact hsame.pipeline_of_advances ⟨rfl, rfl, rfl, rfl, rfl⟩ hs hp (by omega) (by omega) (fun _ => hfree) (by omega)

/-- TX_WAIT_RDY spins, or goes on to the push with `READY` set. -/
theorem pipeline_of_wait (hat : s.upc.toNat = 0x03 ∨ s.upc.toNat = 0x16 ∨ s.upc.toNat = 0x1B) (hs : s.Fixed)
    (hp : s.Pipeline) (h : exec .txWaitRdy s = .next t) : t.Fixed ∧ t.Pipeline := by
  have hsame := sameTransmit_of_exec (by decide) h
  rcases execTxWaitRdy_next.1 h with ⟨hready, rfl⟩ | ⟨-, rfl⟩
  · exact hsame.pipeline_of_advances ⟨rfl, rfl, rfl, rfl, rfl⟩ hs hp (by omega) (by omega) (by omega) (fun _ => hready)
  · exact ⟨hs, hp⟩

/-- TX_LOAD finds `BUSY` clear and, since the message fits, fills the buffer. -/
theorem pipeline_of_load {sel : Selector} (hat : s.upc.toNat = 0x02 ∨ s.upc.toNat = 0x15 ∨ s.upc.toNat = 0x1A)
    (hs : s.Fixed) (hp : s.Pipeline)
    (hlength : (s.fill (s.message sel)).advance.upc.toNat = s.upc.toNat + 1 →
      (s.fill (s.message sel)).advance.lastLength = (s.message sel).length)
    (h : loadMessage (s.message sel) s = .next t) : t.Fixed ∧ t.Pipeline := by
  have hfree : s.busy = false := hp.atLoad (by omega)
  have hcap : 11 ≤ s.params.txbufCap := by obtain ⟨-, -, hcap, -⟩ := hs.legal; exact hcap
  have hlen := length_message s sel
  have hfit : (s.message sel).length ≤ s.params.txbufCap := by omega
  rcases loadMessage_next.1 h with ⟨hbusy, -⟩ | ⟨-, hlong, -⟩ | ⟨-, -, rfl⟩
  · exact absurd (hfree.symm.trans hbusy) nofun
  · exact absurd hfit hlong.not_ge
  · have hupc : (s.fill (s.message sel)).advance.upc.toNat = s.upc.toNat + 1 := index_succ_toNat (x := s.upc) (by omega)
    obtain ⟨hempty, hquiet⟩ := hp.notBusy hfree
    refine ⟨⟨hs.store, hs.noFault, by omega, hs.legal⟩, ?_⟩
    constructor
    case rowInRange => exact hp.rowInRange
    case beforeRows => exact fun hin => hp.beforeRows (by omega)
    case noToken => exact fun hin => hp.noToken (by omega)
    case unmasked => exact hp.unmasked
    case notBusy => exact nofun
    case drained => exact nofun
    case inFlight => exact fun hflight => absurd hempty hflight
    case notified => exact fun hnotified => absurd (hquiet.symm.trans hnotified) nofun
    case counts =>
      rw [hlength hupc]
      intro _
      refine ⟨show 1 + ((s.message sel).length - 1) = (s.message sel).length by omega, le_rfl, ?_, hfit⟩
      show 1 ≤ (s.message sel).length
      omega
    case atLoad => omega
    case beforePush =>
      rw [hlength hupc]
      exact fun _ => ⟨rfl, rfl, rfl, hempty, hquiet⟩
    case readyAtPush => omega
    case readyOnceStarted => exact fun hin => hp.readyOnceStarted (by omega)

/-- The banner is the message last loaded while row 0 has sent nothing else. -/
theorem pipeline_of_loadBanner (hat : s.upc.toNat = 0x02) (hs : s.Fixed) (hp : s.Pipeline)
    (h : exec .txLoadBanner s = .next t) : t.Fixed ∧ t.Pipeline := by
  refine pipeline_of_load (sel := .banner) (by omega) hs hp (fun hupc => ?_) h
  have hrow : (s.fill (s.message .banner)).advance.row = 0#16 := hp.beforeRows (by omega)
  have htok : (s.fill (s.message .banner)).advance.tok = 0#5 := hp.noToken (by omega)
  rw [State.lastLength_eq, if_neg (by omega), if_pos ⟨by omega, htok, hrow⟩]
  rfl

/-- A token, or CR LF, has two units, as every message last loaded at its place has. -/
theorem State.lastLength_of_ge (h : 0x16 ≤ s.upc.toNat) : s.lastLength = 2 := by
  rw [State.lastLength_eq, if_neg (by omega), if_neg (by omega)]

/-- TX_PUSH0 finds a message loaded and the transmitter ready and empty, and puts the first unit in flight. -/
theorem pipeline_of_push (hat : s.upc.toNat = 0x04 ∨ s.upc.toNat = 0x17 ∨ s.upc.toNat = 0x1C) (hs : s.Fixed)
    (hp : s.Pipeline) (h : exec .txPush0 s = .next t) : t.Fixed ∧ t.Pipeline := by
  have hpush : s.AtPush := by omega
  obtain ⟨hbusy, -, -, hempty, hquiet⟩ := hp.beforePush (.inr hpush)
  have hready : s.ready = true := hp.readyAtPush hpush
  rcases execTxPush0_next.1 h with ⟨hfree, -⟩ | ⟨-, hpushed⟩
  · exact absurd (hfree.symm.trans hbusy) nofun
  rcases serPush_next.1 hpushed with ⟨-, -, rfl⟩ | ⟨hover, -⟩
  · have hupc : (s.push (s.txAt 0)).advance.upc.toNat = s.upc.toNat + 1 := index_succ_toNat (x := s.upc) (by omega)
    have hlength : (s.push (s.txAt 0)).advance.lastLength = s.lastLength :=
      State.lastLength_congr (by omega) rfl rfl
    refine ⟨⟨hs.store, hs.noFault, by omega, hs.legal⟩, ?_⟩
    constructor
    case rowInRange => exact hp.rowInRange
    case beforeRows => exact fun hin => hp.beforeRows (by omega)
    case noToken => exact fun hin => hp.noToken (by omega)
    case unmasked => exact hp.unmasked
    case notBusy => exact fun hfree => absurd (hfree.symm.trans hbusy) nofun
    case drained => exact fun hfree => absurd (hfree.symm.trans hbusy) nofun
    case inFlight => exact fun _ => ⟨hquiet, rfl⟩
    case notified => exact fun hnotified => absurd (hquiet.symm.trans hnotified) nofun
    case counts => rw [hlength]; exact hp.counts
    case atLoad => omega
    case beforePush => omega
    case readyAtPush => omega
    case readyOnceStarted => exact fun _ => nofun
  · simp [hready, hempty] at hover

/-- LOOP_WORD touches no transmit state. -/
theorem pipeline_of_loopWord (hat : s.upc.toNat = 0x11) (hs : s.Fixed) (hp : s.Pipeline)
    (h : exec (.loopWord 0x07#8) s = .next t) : t.Fixed ∧ t.Pipeline := by
  have hsame := sameTransmit_of_exec (by decide) h
  rcases execLoopWord_next.1 h with ⟨-, rfl⟩ | ⟨-, rfl⟩
  · exact hsame.pipeline_of_advances ⟨rfl, rfl, rfl, rfl, rfl⟩ hs hp (by omega) (by omega) (by omega) (by omega)
  · have hupc : ((s.setWord (s.word + 1#4)).branch (branchTarget 0x07#8)).upc.toNat = 0x07 := rfl
    exact hsame.pipeline {
      rowInRange := hp.rowInRange
      noToken := fun _ => hp.noToken (by omega)
      lastLength := State.lastLength_congr (by omega) rfl rfl } hs hp

/-- LOOP_TOK goes back with a token counted, or on with the row's tokens sent: a token is the message last loaded. -/
theorem pipeline_of_loopTok (hat : s.upc.toNat = 0x18) (hs : s.Fixed) (hp : s.Pipeline)
    (h : exec (.loopTok 0x14#8) s = .next t) : t.Fixed ∧ t.Pipeline := by
  have hsame := sameTransmit_of_exec (by decide) h
  have hlength : s.lastLength = 2 := State.lastLength_of_ge (by omega)
  rcases execLoopTok_next.1 h with ⟨-, rfl⟩ | ⟨hmore, rfl⟩
  · have hupc : (s.setTok 0#5).advance.upc.toNat = s.upc.toNat + 1 := index_succ_toNat (x := s.upc) (by omega)
    exact hsame.pipeline {
      rowInRange := hp.rowInRange
      noToken := fun _ => rfl
      lastLength := (State.lastLength_of_ge (by omega)).trans hlength.symm } hs hp
  · have hupc : ((s.setTok (s.tok + 1#5)).branch (branchTarget 0x14#8)).upc.toNat = 0x14 := rfl
    have hcounted : s.tok + 1#5 ≠ 0#5 := fun hzero => by
      have := tok_succ_toNat hmore
      rw [hzero] at this
      exact absurd this (Nat.succ_ne_zero _).symm
    exact hsame.pipeline {
      rowInRange := hp.rowInRange
      lastLength := by rw [hlength, State.lastLength_eq, if_neg (by omega), if_neg fun ⟨_, hzero, _⟩ => hcounted hzero]
      } hs hp

/-- LOOP_ROW goes back with a row counted, or on to the end: CR LF is the message last loaded. -/
theorem pipeline_of_loopRow (hat : s.upc.toNat = 0x1D) (hs : s.Fixed) (hp : s.Pipeline)
    (h : exec (.loopRow 0x05#8) s = .next t) : t.Fixed ∧ t.Pipeline := by
  have hsame := sameTransmit_of_exec (by decide) h
  have hlength : s.lastLength = 2 := State.lastLength_of_ge (by omega)
  have htok : s.tok = 0#5 := hp.noToken (by omega)
  have hrow := hp.rowInRange
  obtain ⟨hpos, hrows, -, -⟩ := hs.legal
  rcases execLoopRow_next.1 h with ⟨-, rfl⟩ | ⟨hmore, rfl⟩
  · have hupc : (s.setRow 0#16).advance.upc.toNat = s.upc.toNat + 1 := index_succ_toNat (x := s.upc) (by omega)
    exact hsame.pipeline {
      rowInRange := hpos
      noToken := fun _ => htok
      lastLength := (State.lastLength_of_ge (by omega)).trans hlength.symm } hs hp
  · have hupc : ((s.setRow (s.row + 1#16)).branch (branchTarget 0x05#8)).upc.toNat = 0x05 := rfl
    have hnext : (s.row + 1#16).toNat = s.row.toNat + 1 := by bv_omega
    have hcounted : s.row + 1#16 ≠ 0#16 := fun hzero => by
      rw [hzero] at hnext
      exact absurd hnext (Nat.succ_ne_zero _).symm
    exact hsame.pipeline {
      rowInRange := show (s.row + 1#16).toNat < s.params.numRows by omega
      noToken := fun _ => htok
      lastLength := by rw [hlength, State.lastLength_eq, if_neg (by omega), if_neg fun ⟨_, _, hzero⟩ => hcounted hzero]
      } hs hp

/-- Every SEQ step keeps the two invariants: place by place of the fixed program. -/
theorem pipeline_of_seqStep (hs : s.Fixed) (hp : s.Pipeline) (h : seqStep s = .next t) : t.Fixed ∧ t.Pipeline := by
  have hplace : RunsAt s.upc.toNat (programOps.getD s.upc.toNat .idle) :=
    runsAt_programOps ⟨s.upc.toNat, Nat.lt_succ_of_le hs.inProgram⟩
  rw [seqStep_fixed hs.store hs.inProgram] at h
  generalize programOps.getD s.upc.toNat .idle = i at hplace h
  rcases hplace with ⟨hi, hat⟩ | ⟨rfl, hat⟩ | ⟨rfl, hat⟩ | ⟨rfl, hat⟩ | ⟨rfl, hat⟩ | ⟨rfl, hat⟩ | ⟨rfl, hat⟩ |
    ⟨rfl, hat⟩ | ⟨rfl, hat⟩ | ⟨rfl, hat⟩ | ⟨rfl, -⟩
  · have hquiet : ∀ i ∈ straightOps,
        i ∉ [Instr.txClaim, .txLoadBanner, .txLoadHex, .txLoadCrlf, .txPush0, .txc] := by decide
    exact (sameTransmit_of_exec (hquiet i hi) h).pipeline_of_advances (advances_of_exec hi h) hs hp (by omega)
      (by omega) (by omega) (by omega)
  · exact pipeline_of_claim hat hs hp h
  · exact pipeline_of_loadBanner hat hs hp h
  · exact pipeline_of_load (sel := .hex) (by omega) hs hp (fun hupc => State.lastLength_of_ge (by omega)) h
  · exact pipeline_of_load (sel := .crlf) (by omega) hs hp (fun hupc => State.lastLength_of_ge (by omega)) h
  · exact pipeline_of_wait hat hs hp h
  · exact pipeline_of_push hat hs hp h
  · exact pipeline_of_loopWord hat hs hp h
  · exact pipeline_of_loopTok hat hs hp h
  · exact pipeline_of_loopRow hat hs hp h
  · obtain rfl := next_eq.1 h
    exact ⟨hs, hp⟩

/-! ### The handler's and the transmitter's steps -/

/-- While a notification or a unit in flight is outstanding, no message waits for its first push. -/
theorem State.Pipeline.not_beforePush (hp : s.Pipeline) (h : s.tcPend = true ∨ s.inflight ≠ none) :
    ¬ (s.AtWait ∨ s.AtPush) := fun hat => by
  obtain ⟨-, -, -, hempty, hquiet⟩ := hp.beforePush hat
  rcases h with hnotified | hflight
  · exact absurd (hquiet.symm.trans hnotified) nofun
  · exact hflight hempty

/-- A handler invocation finds the transmitter ready and empty and the cursor inside the buffer; it pushes the next
unit, or clears `BUSY` with nothing in flight. -/
theorem pipeline_of_execTxc (hs : s.Fixed) (hp : s.Pipeline) (hnotified : s.tcPend = true) (h : execTxc s = .next t) :
    t.Fixed ∧ t.Pipeline := by
  obtain ⟨hbusy, hready⟩ := hp.notified hnotified
  have hempty : s.inflight = none := by
    by_contra hflight
    exact absurd ((hp.inFlight hflight).1.symm.trans hnotified) nofun
  have hwait := hp.not_beforePush (.inl hnotified)
  obtain ⟨hsum, -, -, hcap⟩ := hp.counts hbusy
  rcases Nat.eq_zero_or_pos s.pending with hdrained | hpos
  · obtain rfl := next_eq.1 ((execTxc_of_drained hdrained).symm.trans h)
    refine ⟨⟨hs.store, hs.noFault, hs.inProgram, hs.legal⟩, ?_⟩
    exact { hp with
      notBusy := fun _ => ⟨hempty, rfl⟩
      drained := fun _ => hdrained
      inFlight := fun hflight => absurd hempty hflight
      notified := nofun
      counts := nofun
      atLoad := fun _ => rfl
      beforePush := fun hat => absurd hat hwait }
  · have hpopped : s.cursor + 1 + (s.pending - 1) = s.lastLength ∧ 1 ≤ s.cursor + 1 ∧ s.cursor + 1 ≤ s.lastLength ∧
        s.lastLength ≤ s.params.txbufCap := by omega
    obtain rfl := next_eq.1 ((execTxc_of_pending hpos (by omega) hready hempty).symm.trans h)
    refine ⟨⟨hs.store, hs.noFault, hs.inProgram, hs.legal⟩, ?_⟩
    exact { hp with
      notBusy := fun hfree => absurd (hfree.symm.trans hbusy) nofun
      drained := fun hfree => absurd (hfree.symm.trans hbusy) nofun
      inFlight := fun _ => ⟨rfl, rfl⟩
      notified := nofun
      counts := fun _ => hpopped
      beforePush := fun hat => absurd hat hwait
      readyAtPush := fun hat => absurd (.inr hat) hwait
      readyOnceStarted := fun _ => nofun }

/-- A step of the transmitter shifts the unit in flight out and latches its notification, for no earlier one is latched;
or it raises `READY` with nothing in flight. -/
theorem pipeline_of_serStep (hs : s.Fixed) (hp : s.Pipeline) (h : serStep s = .next t) : t.Fixed ∧ t.Pipeline := by
  rcases serStep_next.1 h with ⟨u, hflight, hlatched, -⟩ | ⟨u, hflight, -, rfl⟩ | ⟨hempty, rfl⟩
  · have hquiet : s.tcPend = false := (hp.inFlight (by simp [hflight])).1
    exact absurd (hquiet.symm.trans hlatched) nofun
  · have hwait := hp.not_beforePush (.inr (by simp [hflight]))
    have hbusy : s.busy = true := by
      by_contra hfree
      exact absurd ((hp.notBusy (Bool.eq_false_of_not_eq_true hfree)).1.symm.trans hflight) nofun
    refine ⟨⟨hs.store, hs.noFault, hs.inProgram, hs.legal⟩, ?_⟩
    exact { hp with
      notBusy := fun hfree => absurd (hfree.symm.trans hbusy) nofun
      inFlight := fun hflight => absurd rfl hflight
      notified := fun _ => ⟨hbusy, rfl⟩
      beforePush := fun hat => absurd hat hwait
      readyAtPush := fun _ => rfl
      readyOnceStarted := fun _ _ => rfl }
  · refine ⟨⟨hs.store, hs.noFault, hs.inProgram, hs.legal⟩, ?_⟩
    exact { hp with
      inFlight := fun hflight => absurd hempty hflight
      notified := fun hnotified => ⟨(hp.notified hnotified).1, rfl⟩
      readyAtPush := fun _ => rfl
      readyOnceStarted := fun _ _ => rfl }

/-- The two invariants look at none of the schedule's own fields. -/
theorem State.Pipeline.passTurn (hs : s.Fixed) (hp : s.Pipeline) (m : Agent) :
    (s.passTurn m).Fixed ∧ (s.passTurn m).Pipeline :=
  ⟨{ hs with }, { hp with }⟩

/-- Settles O48: each agent's step keeps the invariants, and so does passing the turn. -/
theorem pipelineInvariantIsKept : Obligations.PipelineInvariantIsKept := by
  intro s t hs hp h
  obtain ⟨-, u, rfl, hu⟩ := step_next h
  obtain ⟨hfixed, hpipeline⟩ : u.Fixed ∧ u.Pipeline := by
    rcases hu with ⟨-, hseq⟩ | ⟨-, hnotified, -, htxc⟩ | ⟨-, -, hser⟩
    · exact pipeline_of_seqStep hs hp hseq
    · exact pipeline_of_execTxc hs hp hnotified htxc
    · exact pipeline_of_serStep hs hp hser
  exact hpipeline.passTurn hfixed s.mover

end Sys2Proof.Machine
end

section
/-!
The bus family: the pin writes, SETTLE, the samples and the address increment, and that an unsettled bus stays
unsettled with too short a settle time (41_bus_read.md).
-/
namespace Sys2Proof.Machine
variable {i : Instr} {s t : State}

/-! ### Settled samples, draws and the margin (20_memory.md R82, R84, 00_scope.md R12) -/

theorem State.sampleValid_iff :
    s.sampleValid = true ↔ s.ce = true ∧ s.oe = true ∧ s.settled = true ∧ s.stbStale = false := by
  simp only [State.sampleValid, Bool.and_eq_true, Bool.not_eq_true', and_assoc]

theorem State.sampleValid_eq_false_iff :
    s.sampleValid = false ↔ s.ce = false ∨ s.oe = false ∨ s.settled = false ∨ s.stbStale = true := by
  simp only [State.sampleValid, Bool.and_eq_false_iff, Bool.not_eq_false', or_assoc]

theorem State.busSample_of_not_sampleValid (h : s.sampleValid = false) : s.busSample = Config.draw s.draws := by
  rw [State.busSample, h]
  rfl

/-- A sample that is not settled and enabled captures a draw, and counts it. -/
theorem State.capture_of_not_sampleValid (h : s.sampleValid = false) (i : Fin 32) :
    s.capture i = (s.countDraw true).putCap i (Config.draw s.draws) := by
  rw [State.capture, State.busSample_of_not_sampleValid h, h]
  rfl

theorem State.marginMet_of_le (h : s.params.tMin ≤ s.params.tSettle) : s.marginMet = true := decide_eq_true h

theorem State.marginMet_of_lt (h : s.params.tSettle < s.params.tMin) : s.marginMet = false :=
  decide_eq_false (Nat.not_le.2 h)

/-- With the margin met, SETTLE settles the bus. -/
theorem exec_settle_of_le (h : s.params.tMin ≤ s.params.tSettle) :
    exec .settle s = .next (s.setSettled true).advance := by
  rw [exec_settle, State.marginMet_of_le h, Bool.true_or]

/-- With the margin missed, SETTLE only passes. -/
theorem exec_settle_of_lt (h : s.params.tSettle < s.params.tMin) : exec .settle s = .next s.advance := by
  rw [exec_settle, State.marginMet_of_lt h, Bool.false_or]
  rfl

/-! ### A margin that is missed (41_bus_read.md R210, R216) -/

/-- The settle time is too short and the bus is not settled. -/
def State.NeverSettled (s : State) : Prop := s.params.tSettle < s.params.tMin ∧ s.settled = false

/-- The writers of `SETTLED` are the pin writes, which clear it, and SETTLE, which needs the margin. -/
theorem exec_neverSettled (hs : s.NeverSettled) (h : exec i s = .next t) : t.NeverSettled := by
  obtain ⟨hshort, hsettled⟩ := hs
  have w := exec_writesAsListed h
  refine ⟨w.params ▸ hshort, ?_⟩
  by_cases hi : i = .settle
  · subst hi
    obtain rfl := next_eq.1 ((exec_settle_of_lt hshort).symm.trans h)
    exact hsettled
  · rcases w.settled with hsame | hmem
    · exact hsame.trans hsettled
    · exact exec_pinWrite_settled (by simpa [hi] using hmem) h

/-- While the bus is not settled, its sample is a draw. -/
theorem State.NeverSettled.busSample (hs : s.NeverSettled) : s.busSample = Config.draw s.draws :=
  State.busSample_of_not_sampleValid (State.sampleValid_eq_false_iff.2 (.inr (.inr (.inl hs.2))))

/-- Settles O20: a micro-op keeps the bus unsettled, and no other kind of write touches `SETTLED` or the parameters. -/
theorem shortMarginNeverSettles : Obligations.ShortMarginNeverSettles := by
  intro s t hshort hsettled h
  have hs : s.NeverSettled := ⟨hshort, hsettled⟩
  have ht : t.NeverSettled :=
    step_keeps (fun _ _ hu => hu) (fun _ => hs) (fun _ _ => exec_neverSettled hs) (fun _ => hs) hs h
  exact ⟨ht.1, ht.2, ht.busSample⟩

/-! ### The pin writes (41_bus_read.md R201 to R209) -/

/-- Settles O11: each has one case; and a sample needs both lines asserted. -/
theorem chipControl : Obligations.ChipControl := by
  refine ⟨⟨rfl, rfl, rfl, rfl⟩, fun s => ⟨exec_ceOn s, exec_ceOff s, exec_oeOn s, exec_oeOff s⟩,
    fun s => ⟨fun hce => ?_, fun hoe => ?_, fun hoff => ?_⟩⟩
  · rw [State.ceLevel, if_pos hce]
  · rw [State.oeLevel, if_pos hoe]
  · exact State.busSample_of_not_sampleValid (State.sampleValid_eq_false_iff.2 (hoff.imp_right .inl))

/-- Settles O12: each has one case. -/
theorem strobeDrive : Obligations.StrobeDrive := ⟨rfl, rfl, rfl, fun s => ⟨exec_stbH s, exec_stbL s⟩⟩

theorem addrLo_eq_ofNat (a : Address) : addrLo a = BitVec.ofNat 8 (a.toNat % 256) := by
  apply BitVec.eq_of_toNat_eq
  simp [addrLo]

theorem addrMid_eq_ofNat (a : Address) : addrMid a = BitVec.ofNat 8 (a.toNat / 256 % 256) := by
  apply BitVec.eq_of_toNat_eq
  simp [addrMid, Nat.shiftRight_eq_div_pow]

theorem addrHi_eq_ofNat (a : Address) : addrHi a = BitVec.ofNat 4 (a.toNat / 65536) := by
  apply BitVec.eq_of_toNat_eq
  simp [addrHi, Nat.shiftRight_eq_div_pow]

/-- Settles O13: each has one case, and the fields of `ADDR` are quotients and remainders. -/
theorem addressDrive : Obligations.AddressDrive := by
  refine ⟨rfl, rfl, rfl, fun s => ?_⟩
  rw [← addrLo_eq_ofNat, ← addrMid_eq_ofNat, ← addrHi_eq_ofNat]
  exact ⟨exec_drvLo s, exec_drvMid s, exec_drvHi s⟩

/-! ### Settle, sample and increment (41_bus_read.md R210 to R213) -/

/-- Settles O15: the two cases of the margin. -/
theorem settleNeedsTheMargin : Obligations.SettleNeedsTheMargin :=
  ⟨rfl, fun _ => exec_settle_of_le, fun _ => exec_settle_of_lt⟩

/-- Settles O16: the two cases of a capture, at either position of the word. -/
theorem sampleStoresTheBusByte : Obligations.SampleStoresTheBusByte := by
  refine ⟨rfl, rfl, fun s hce hoe hsettled hfresh => ?_, fun s hinvalid => ?_, fun s => toNat_joinAddr ..⟩
  · have hcapture := State.capture_of_sampleValid (State.sampleValid_iff.2 ⟨hce, hoe, hsettled, hfresh⟩)
    rw [exec_smpH, exec_smpL, hcapture, hcapture]
    exact ⟨rfl, rfl⟩
  · have hcapture := State.capture_of_not_sampleValid (State.sampleValid_eq_false_iff.2 hinvalid)
    rw [exec_smpH, exec_smpL, hcapture, hcapture]
    exact ⟨rfl, rfl⟩

/-- Settles O17: the sum of 20-bit words is the sum modulo 2^20. -/
theorem addressIncrementWraps : Obligations.AddressIncrementWraps := by
  refine ⟨rfl, fun s => ?_⟩
  have hsum : s.addr + 1#20 = BitVec.ofNat 20 ((s.addr.toNat + 1) % 2 ^ 20) := by
    apply BitVec.eq_of_toNat_eq
    simp
  rw [← hsum]
  exact exec_ainc s

end Sys2Proof.Machine
end

section
/-!
The sequencing family: the control store and the cycle of the step, the control micro-ops, and the walk invariant of the
fixed micro-program (42_sequencing.md; 41_bus_read.md R217).
-/
namespace Sys2Proof.Machine
variable {i : Instr} {s t : State}

/-! ### The control store and the step (42_sequencing.md R240, R246) -/

/-- At reset the control store holds the fixed micro-program. -/
theorem csWord_reset (u : Index) : State.reset.csWord u = programWord u.toNat :=
  State.fetchWord_fixed (s := State.reset.branch u) rfl

/-- Settles O4: the store holds the fixed micro-program, whose words decode to its micro-ops. -/
theorem controlStoreHoldsTheMicroProgram : Obligations.ControlStoreHoldsTheMicroProgram := by
  intro u
  rw [csWord_reset]
  exact ⟨rfl, fun hu => decode_programWord ⟨u.toNat, Nat.lt_succ_of_le hu⟩⟩

/-- Settles O5: with no fault marked the step is the moving agent's, and passing the turn writes the schedule's fields. -/
theorem stepRunsTheDecodedInstruction : Obligations.StepRunsTheDecodedInstruction := by
  refine ⟨fun s i hf hm hi => ?_, fun s hf hm => ?_, fun s hf hm => ?_, fun m t => rfl⟩
  · have hseq : seqStep s = exec i s := by rw [seqStep, hi]
    rw [step_eq hf, hm, agentStep, hseq]
  · rw [step_eq hf, hm, agentStep]
  · rw [step_eq hf, hm, agentStep]

/-- Every agent's step answers a next state. -/
theorem agentStep_answers (a : Agent) (s : State) : ∃ t, agentStep a s = .next t := by
  cases a with
  | seq =>
    cases hd : decodeFetched s.fetchWord with
    | ok i =>
      obtain ⟨t, ht⟩ := exec_answers i s
      exact ⟨t, seqStep_next.2 (.inl ⟨i, hd, ht⟩)⟩
    | error e => exact ⟨_, seqStep_next.2 (.inr ⟨e, hd, rfl⟩)⟩
  | txc => exact exec_answers .txc s
  | ser =>
    cases hi : s.inflight with
    | none => exact ⟨_, serStep_next.2 (.inr (.inr ⟨hi, rfl⟩))⟩
    | some u =>
      cases hp : s.tcPend with
      | true => exact ⟨_, serStep_next.2 (.inl ⟨u, hi, hp, rfl⟩)⟩
      | false => exact ⟨_, serStep_next.2 (.inr (.inl ⟨u, hi, hp, rfl⟩))⟩

/-- Settles O10: the moving agent's step answers, and the turn passes in its answer. -/
theorem stepAlwaysAnswers : Obligations.StepAlwaysAnswers := by
  intro s hf
  obtain ⟨u, hu⟩ := agentStep_answers s.mover s
  exact ⟨u.passTurn s.mover, by rw [step_eq hf, hu, thenPassTurn]⟩

/-! ### The control micro-ops (42_sequencing.md R242 to R245) -/

theorem branchTarget_eq_ofNat (imm : Byte) : branchTarget imm = BitVec.ofNat 6 (imm.toNat % 64) := by
  apply BitVec.eq_of_toNat_eq
  simp [branchTarget]

/-- A counter's increment is the number after it. -/
theorem succ_eq_ofNat {n : Nat} (x : BitVec n) : x + BitVec.ofNat n 1 = BitVec.ofNat n (x.toNat + 1) := by
  rw [BitVec.ofNat_add, BitVec.ofNat_toNat, BitVec.setWidth_eq]

/-- Settles O30: each loop's two cases, at its limit and below it. -/
theorem loopsBranchOrFallThrough : Obligations.LoopsBranchOrFallThrough := by
  intro s imm
  rw [← branchTarget_eq_ofNat, ← succ_eq_ofNat, ← succ_eq_ofNat, ← succ_eq_ofNat]
  refine ⟨⟨rfl, rfl, rfl⟩, fun hlast => ?_, fun hmore => ?_, fun hlast => ?_, fun hmore => ?_, fun hlast => ?_,
    fun hmore => ?_⟩
  · exact execLoopWord_next.2 (.inl ⟨BitVec.eq_of_toNat_eq hlast, rfl⟩)
  · exact execLoopWord_next.2 (.inr ⟨BitVec.toNat_ne.2 hmore, rfl⟩)
  · exact execLoopTok_next.2 (.inl ⟨BitVec.eq_of_toNat_eq hlast, rfl⟩)
  · exact execLoopTok_next.2 (.inr ⟨BitVec.toNat_ne.2 hmore, rfl⟩)
  · exact execLoopRow_next.2 (.inl ⟨hlast, rfl⟩)
  · exact execLoopRow_next.2 (.inr ⟨hmore, rfl⟩)

/-- Settles O31: IDLE has one case. -/
theorem idleSpinsForEver : Obligations.IdleSpinsForEver := ⟨rfl, exec_idle⟩

/-! ### What the walk invariant does not look at (42_sequencing.md section 4) -/

/-- `s` with all that the walk invariant does not look at as `t` has it: the transmit state, the fault mark, the control
store and the model's own fields. -/
def State.withTransmit (s t : State) : State :=
  { s with txbuf := t.txbuf, busy := t.busy, pending := t.pending, cursor := t.cursor, im := t.im, serOn := t.serOn,
           ready := t.ready, inflight := t.inflight, tcPend := t.tcPend, line := t.line, fault := t.fault, cs := t.cs,
           turn := t.turn, clock := t.clock, txcWait := t.txcWait, seqWait := t.seqWait, draws := t.draws }

theorem State.Walk.withTransmit (hw : s.Walk) (t : State) : (s.withTransmit t).Walk := { hw with }

/-- The micro-ops of the transmit pipeline that SEQ runs (40_transmit_pipeline.md R162 to R166). -/
def transmitOps : List Instr := [.serInit, .txClaim, .txLoadBanner, .txLoadHex, .txLoadCrlf, .txWaitRdy, .txPush0]

/-- A load writes transmit state only, and stays where it is with a fault marked or goes on. -/
theorem loadMessage_withTransmit {m : List Byte} (h : loadMessage m s = .next t) :
    t = s.withTransmit t ∨ t = (s.withTransmit t).advance := by
  rcases loadMessage_next.1 h with ⟨-, rfl⟩ | ⟨-, -, rfl⟩ | ⟨-, -, rfl⟩
  · exact .inl rfl
  · exact .inl rfl
  · exact .inr rfl

/-- A transmit micro-op writes transmit state only, and stays where it is or goes on. -/
theorem exec_withTransmit (hi : i ∈ transmitOps) (h : exec i s = .next t) :
    t = s.withTransmit t ∨ t = (s.withTransmit t).advance := by
  simp only [transmitOps, List.mem_cons, List.not_mem_nil, or_false] at hi
  rcases hi with rfl | rfl | rfl | rfl | rfl | rfl | rfl
  · obtain rfl := next_eq.1 h
    exact .inr rfl
  · rcases execTxClaim_next.1 h with ⟨-, rfl⟩ | ⟨-, rfl⟩
    · exact .inl rfl
    · exact .inr rfl
  · exact loadMessage_withTransmit h
  · exact loadMessage_withTransmit h
  · exact loadMessage_withTransmit h
  · rcases execTxWaitRdy_next.1 h with ⟨-, rfl⟩ | ⟨-, rfl⟩
    · exact .inr rfl
    · exact .inl rfl
  · rcases execTxPush0_next.1 h with ⟨-, rfl⟩ | ⟨-, hpush⟩
    · exact .inl rfl
    · rcases serPush_next.1 hpush with ⟨-, -, rfl⟩ | ⟨-, rfl⟩
      · exact .inr rfl
      · exact .inl rfl

/-- The transmitter writes transmit state only. -/
theorem serStep_withTransmit (h : serStep s = .next t) : t = s.withTransmit t := by
  rcases serStep_next.1 h with ⟨u, -, -, rfl⟩ | ⟨u, -, -, rfl⟩ | ⟨-, rfl⟩ <;> rfl

/-- The handler writes transmit state only. -/
theorem execTxc_withTransmit (h : execTxc s = .next t) : t = s.withTransmit t := by
  rw [execTxc_frame h]
  rfl

/-! ### The samples of a row (41_bus_read.md R217) -/

/-- `upc` is at a sample of the fixed micro-program. -/
abbrev State.AtSample (s : State) : Prop := s.At 0x0C 0x0C ∨ s.At 0x0F 0x0F

/-- The walk invariant makes every sample settled and enabled, with `ADDR` on the pins. -/
theorem State.Walk.sampleValid (hw : s.Walk) (hm : s.marginMet = true) (hat : s.AtSample) :
    s.sampleValid = true ∧ s.busAddress = rowAddress s.row.toNat s.word.toNat := by
  have hfresh : s.stbStale = false := by
    rcases hat with hat | hat
    · exact (hw.strobeHigh (by omega)).2
    · exact (hw.strobeLow (by omega)).2
  refine ⟨State.sampleValid_iff.2 ⟨hw.chipEnable.2 (by omega), hw.outputEnable.2 (by omega),
    hw.settledForSample hm hat, hfresh⟩, ?_⟩
  rw [State.busAddress, hw.lowDriven (by omega), hw.midDriven (by omega), hw.highDriven (by omega), joinAddr_split,
    hw.inRow (by omega)]

/-- The byte on the bus at a sample is the next one of the row. -/
theorem State.Walk.busSample (hw : s.Walk) (hm : s.marginMet = true) (hat : s.AtSample) :
    s.busSample = s.rowByte s.row.toNat s.captured := by
  obtain ⟨hvalid, haddr⟩ := hw.sampleValid hm hat
  rw [State.busSample, if_pos hvalid, haddr]
  rcases hat with hat | hat
  · have hupc : s.upc.toNat = 0x0C := by omega
    have hcaptured : s.captured = 2 * s.word.toNat := by simp [State.captured, hupc]
    rw [(hw.strobeHigh (by omega)).1, hcaptured, State.rowByte, if_pos (by omega),
      Nat.mul_div_cancel_left _ Nat.two_pos, selectHalf_high]
  · have hupc : s.upc.toNat = 0x0F := by omega
    have hcaptured : s.captured = 2 * s.word.toNat + 1 := by simp [State.captured, hupc]
    have hword : (2 * s.word.toNat + 1) / 2 = s.word.toNat := by omega
    rw [(hw.strobeLow (by omega)).1, hcaptured, State.rowByte, if_neg (by omega), hword, selectHalf_low]

/-! ### One place on in the program

`At` is a bound on `upc`, so `omega` decides from where `upc` is which clauses of the walk invariant speak of a state. -/

/-- `t` is one place after `s` in the program, and has what the fixed micro-program writes at the place of `s` to the
registers of the walk (42_sequencing.md R246). -/
structure State.WalksOn (s t : State) : Prop extends s.Advances t where
  word : t.word = s.word
  addr : t.addr = if s.upc.toNat = 0x10 then s.addr + 1#20 else s.addr
  ce : t.ce = if s.upc.toNat = 0x05 then true else if s.upc.toNat = 0x12 then false else s.ce
  oe : t.oe = if s.upc.toNat = 0x06 then true else if s.upc.toNat = 0x13 then false else s.oe
  pinAlo : t.pinAlo = if s.upc.toNat = 0x07 then addrLo s.addr else s.pinAlo
  pinAmid : t.pinAmid = if s.upc.toNat = 0x08 then addrMid s.addr else s.pinAmid
  pinAhi : t.pinAhi = if s.upc.toNat = 0x09 then addrHi s.addr else s.pinAhi
  stb : t.stb =
    if s.upc.toNat = 0x0A then stbHighLevel else if s.upc.toNat = 0x0D then !stbHighLevel else s.stb
  stbStale : s.At 0x0A 0x0F →
    t.stbStale = if s.upc.toNat = 0x0A ∨ s.upc.toNat = 0x0D then false else s.stbStale
  settled : s.At 0x0B 0x0B ∨ s.At 0x0E 0x0E → s.marginMet = true → t.settled = true
  capAt : ∀ k, t.capAt k = if s.AtSample ∧ k.val = s.captured then s.busSample else s.capAt k

/-- The micro-ops of the program outside the part that reads a row pass on everything the walk looks at. -/
theorem State.walksOn_advance (hout : ¬ s.At 0x05 0x13) : s.WalksOn s.advance where
  upc := rfl
  row := rfl
  tok := rfl
  rom := rfl
  params := rfl
  word := rfl
  addr := (if_neg (by omega)).symm
  ce := by rw [if_neg (by omega), if_neg (by omega)]; rfl
  oe := by rw [if_neg (by omega), if_neg (by omega)]; rfl
  pinAlo := (if_neg (by omega)).symm
  pinAmid := (if_neg (by omega)).symm
  pinAhi := (if_neg (by omega)).symm
  stb := by rw [if_neg (by omega), if_neg (by omega)]; rfl
  stbStale := by omega
  settled := by omega
  capAt k := (if_neg (by omega)).symm

/-- A sample at the next position of the row passes on all but the byte captured there. -/
theorem State.walksOn_capture {j : Fin 32} (hat : s.AtSample) (hj : j.val = s.captured) :
    s.WalksOn (s.capture j).advance := by
  have hcapture (k : Fin 32) : (s.capture j).advance.capAt k =
      if s.AtSample ∧ k.val = s.captured then s.busSample else s.capAt k := by
    simp only [hat, true_and, ← hj, ← Fin.ext_iff]
    exact s.capture_capAt j k
  have hupc : s.upc.toNat = 0x0C ∨ s.upc.toNat = 0x0F := by omega
  refine ⟨⟨rfl, rfl, rfl, rfl, rfl⟩, rfl, ?_, ?_, ?_, ?_, ?_, ?_, ?_, ?_, by omega, hcapture⟩ <;>
    rcases hupc with hupc | hupc <;> simp [State.capture, hupc]

/-- At a sample the program writes what `WalksOn` says: the sample is for the next position of the row. -/
theorem walksOn_of_sample (hat : s.AtSample) (h : exec (programOps.getD s.upc.toNat .idle) s = .next t) :
    s.WalksOn t := by
  have hplace : s.upc.toNat = 0x0C ∨ s.upc.toNat = 0x0F := by omega
  rcases hplace with hu | hu <;> rw [hu] at h <;> obtain rfl := next_eq.1 h
  · exact State.walksOn_capture hat (by simp [State.captured, capHigh, hu])
  · exact State.walksOn_capture hat (by simp [State.captured, capLow, hu])

/-- From ENABLE to RELEASE the program writes what `WalksOn` says, place by place. -/
theorem walksOn_of_exec (hat : s.At 0x05 0x13) (hloop : s.upc.toNat ≠ 0x11)
    (h : exec (programOps.getD s.upc.toNat .idle) s = .next t) : s.WalksOn t := by
  by_cases hsample : s.AtSample
  · exact walksOn_of_sample hsample h
  have hplace : s.upc.toNat = 0x05 ∨ s.upc.toNat = 0x06 ∨ s.upc.toNat = 0x07 ∨ s.upc.toNat = 0x08 ∨
      s.upc.toNat = 0x09 ∨ s.upc.toNat = 0x0A ∨ s.upc.toNat = 0x0B ∨ s.upc.toNat = 0x0D ∨ s.upc.toNat = 0x0E ∨
      s.upc.toNat = 0x10 ∨ s.upc.toNat = 0x12 ∨ s.upc.toNat = 0x13 := by omega
  rcases hplace with hu | hu | hu | hu | hu | hu | hu | hu | hu | hu | hu | hu
  all_goals
    rw [hu] at h
    have hadv := advances_of_exec (by decide) h
    obtain rfl := next_eq.1 h
    constructor
    case toAdvances => exact hadv
    case settled => simp +contextual [hu]
    case capAt => exact fun k => (if_neg (by omega)).symm
    all_goals simp [hu]

/-- Going on fills the next position of the row at a sample, and no other. -/
theorem State.WalksOn.captured (h : s.WalksOn t) (hw : s.Walk) (hle : s.upc.toNat ≤ 0x1C) (hloop : s.upc.toNat ≠ 0x11) :
    t.captured = if s.AtSample then s.captured + 1 else s.captured := by
  have hupc : t.upc.toNat = s.upc.toNat + 1 := by rw [h.upc, index_succ_toNat (by omega)]
  by_cases hat : s.AtSample
  · have hs : s.upc.toNat = 0x0C ∨ s.upc.toNat = 0x0F := by omega
    rcases hs with hs | hs <;> simp [State.captured, hupc, hs, h.word]
  rw [if_neg hat]
  by_cases hfirst : s.upc.toNat = 0x06
  · obtain ⟨-, hword⟩ := hw.rowStart (by omega)
    simp [State.captured, hupc, hfirst, h.word, hword]
  · have hsame (k : Nat) (hk : s.upc.toNat ≠ k) : t.upc.toNat ≤ k ↔ s.upc.toNat ≤ k := by omega
    simp only [State.captured, h.word, hsame 0x06 hfirst, hsame 0x0C (by omega), hsame 0x0F (by omega),
      hsame 0x11 hloop, hsame 0x1D (by omega)]

/-- Going on keeps the captured bytes: a sample captures the row's next one. -/
theorem State.WalksOn.bytes (h : s.WalksOn t) (hw : s.Walk) (hle : s.upc.toNat ≤ 0x1C) (hloop : s.upc.toNat ≠ 0x11)
    (hm : s.marginMet = true) (k : Fin 32) (hk : k.val < t.captured) : t.capAt k = s.rowByte s.row.toNat k.val := by
  rw [h.capAt]
  split_ifs with hnext
  · rw [hw.busSample hm hnext.1, hnext.2]
  · rw [h.captured hw hle hloop] at hk
    have hold : k.val < s.captured := by split_ifs at hk <;> omega
    exact hw.bytes hm k hold

/-- Going on keeps the walk invariant, from every place but those of the loops. -/
theorem State.WalksOn.walk (h : s.WalksOn t) (hw : s.Walk) (hle : s.upc.toNat ≤ 0x1C)
    (hloop : s.upc.toNat ≠ 0x11 ∧ s.upc.toNat ≠ 0x18) : t.Walk := by
  have hupc : t.upc.toNat = s.upc.toNat + 1 := by rw [h.upc, index_succ_toNat (by omega)]
  have hmargin : t.marginMet = s.marginMet := by rw [State.marginMet, State.marginMet, h.params]
  have haddr (hat : ¬ s.At 0x10 0x10) : t.addr = s.addr := by rw [h.addr, if_neg (by omega)]
  constructor
  case rowInRange => rw [h.row, h.params]; exact hw.rowInRange
  case beforeRows => rw [h.row]; exact fun hat => hw.beforeRows (by omega)
  case rowStart => intro hat; rw [haddr (by omega), h.row, h.word]; exact hw.rowStart (by omega)
  case inRow =>
    intro hat
    rw [haddr (by omega), h.row, h.word]
    by_cases hfirst : s.At 0x06 0x06
    · obtain ⟨hstart, hword⟩ := hw.rowStart (by omega)
      rw [hstart, hword]
      rfl
    · exact hw.inRow (by omega)
  case stepped => intro hat; rw [h.addr, if_pos (by omega), h.row, h.word, hw.inRow (by omega), rowAddress_succ]
  case rowDone => intro hat; rw [haddr (by omega), h.row, h.word]; exact hw.rowDone (by omega)
  case allDone => omega
  case noToken => rw [h.tok]; exact fun hat => hw.noToken (by omega)
  case chipEnable =>
    rw [h.ce]
    split_ifs
    · exact iff_of_true rfl (by omega)
    · exact iff_of_false nofun (by omega)
    · rw [hw.chipEnable]; omega
  case outputEnable =>
    rw [h.oe]
    split_ifs
    · exact iff_of_true rfl (by omega)
    · exact iff_of_false nofun (by omega)
    · rw [hw.outputEnable]; omega
  case lowDriven =>
    intro hat
    rw [h.pinAlo, haddr (by omega), ite_eq_left_iff]
    exact fun _ => hw.lowDriven (by omega)
  case midDriven =>
    intro hat
    rw [h.pinAmid, haddr (by omega), ite_eq_left_iff]
    exact fun _ => hw.midDriven (by omega)
  case highDriven =>
    intro hat
    rw [h.pinAhi, haddr (by omega), ite_eq_left_iff]
    exact fun _ => hw.highDriven (by omega)
  case strobeHigh =>
    intro hat
    rw [h.stb, h.stbStale (by omega)]
    by_cases hstrobe : s.upc.toNat = 0x0A
    · simp [hstrobe]
    · rw [if_neg hstrobe, if_neg (by omega), if_neg (by omega)]
      exact hw.strobeHigh (by omega)
  case strobeLow =>
    intro hat
    rw [h.stb, h.stbStale (by omega)]
    by_cases hstrobe : s.upc.toNat = 0x0D
    · simp [hstrobe]
    · rw [if_neg (by omega), if_neg hstrobe, if_neg (by omega)]
      exact hw.strobeLow (by omega)
  case settledForSample => rw [hmargin]; exact fun hm hat => h.settled (by omega) hm
  case bytes =>
    rw [hmargin, h.row]
    intro hm k hk
    rw [State.rowByte_congr h.rom]
    exact h.bytes hw hle hloop.1 hm k hk

/-! ### The loops -/

/-- LOOP_WORD goes back to the next word of the row, or on with all sixteen read. -/
theorem walk_of_loopWord (hat : s.upc.toNat = 0x11) (hw : s.Walk) (h : exec (.loopWord 0x07#8) s = .next t) :
    t.Walk := by
  have haddr := hw.stepped (by omega)
  have hce : s.ce = true := hw.chipEnable.2 (by omega)
  have hoe : s.oe = true := hw.outputEnable.2 (by omega)
  have hcaptured : s.captured = 2 * s.word.toNat + 2 := by simp [State.captured, hat]
  rcases execLoopWord_next.1 h with ⟨hlast, rfl⟩ | ⟨hmore, rfl⟩
  · have hupc : (s.setWord 0#4).advance.upc.toNat = s.upc.toNat + 1 := index_succ_toNat (x := s.upc) (by omega)
    have hfull : (s.setWord 0#4).advance.captured = s.captured := by
      rw [hcaptured, hlast, State.captured, hupc, hat]
      rfl
    constructor
    case rowInRange => exact hw.rowInRange
    case rowDone => exact fun _ => ⟨by simpa [hlast] using haddr, rfl⟩
    case noToken => exact fun _ => hw.noToken (by omega)
    case chipEnable => exact iff_of_true hce (by omega)
    case outputEnable => exact iff_of_true hoe (by omega)
    case bytes => exact fun hm k hk => hw.bytes hm k (hfull ▸ hk)
    all_goals omega
  · have hupc : ((s.setWord (s.word + 1#4)).branch (branchTarget 0x07#8)).upc.toNat = 0x07 := rfl
    have hnext : (s.word + 1#4).toNat = s.word.toNat + 1 := word_succ_toNat hmore
    have hsame : ((s.setWord (s.word + 1#4)).branch (branchTarget 0x07#8)).captured = s.captured := by
      rw [hcaptured]
      change 2 * (s.word + 1#4).toNat = 2 * s.word.toNat + 2
      omega
    constructor
    case rowInRange => exact hw.rowInRange
    case inRow => exact fun _ => hnext ▸ haddr
    case noToken => exact fun _ => hw.noToken (by omega)
    case chipEnable => exact iff_of_true hce (by omega)
    case outputEnable => exact iff_of_true hoe (by omega)
    case bytes => exact fun hm k hk => hw.bytes hm k (hsame ▸ hk)
    all_goals omega

/-- LOOP_TOK goes back to the next token of the row, or on with all of them sent. -/
theorem walk_of_loopTok (hat : s.upc.toNat = 0x18) (hw : s.Walk) (h : exec (.loopTok 0x14#8) s = .next t) :
    t.Walk := by
  have hdone := hw.rowDone (by omega)
  have hce : ¬ s.ce = true := mt hw.chipEnable.1 (by omega)
  have hoe : ¬ s.oe = true := mt hw.outputEnable.1 (by omega)
  have hcaptured : s.captured = 32 := by simp [State.captured, hat]
  rcases execLoopTok_next.1 h with ⟨-, rfl⟩ | ⟨-, rfl⟩
  · have hupc : (s.setTok 0#5).advance.upc.toNat = s.upc.toNat + 1 := index_succ_toNat (x := s.upc) (by omega)
    constructor
    case rowInRange => exact hw.rowInRange
    case rowDone => exact fun _ => hdone
    case noToken => exact fun _ => rfl
    case chipEnable => exact iff_of_false hce (by omega)
    case outputEnable => exact iff_of_false hoe (by omega)
    case bytes => exact fun hm k _ => hw.bytes hm k (by omega)
    all_goals omega
  · have hupc : ((s.setTok (s.tok + 1#5)).branch (branchTarget 0x14#8)).upc.toNat = 0x14 := rfl
    constructor
    case rowInRange => exact hw.rowInRange
    case rowDone => exact fun _ => hdone
    case chipEnable => exact iff_of_false hce (by omega)
    case outputEnable => exact iff_of_false hoe (by omega)
    case bytes => exact fun hm k _ => hw.bytes hm k (by omega)
    all_goals omega

/-- LOOP_ROW goes back to the start of the next row, or on with all of them sent. -/
theorem walk_of_loopRow (hat : s.upc.toNat = 0x1D) (hs : s.Fixed) (hw : s.Walk)
    (h : exec (.loopRow 0x05#8) s = .next t) : t.Walk := by
  obtain ⟨haddr, hword⟩ := hw.rowDone (by omega)
  rw [rowAddress_next] at haddr
  have htok : s.tok = 0#5 := hw.noToken (by omega)
  have hce : ¬ s.ce = true := mt hw.chipEnable.1 (by omega)
  have hoe : ¬ s.oe = true := mt hw.outputEnable.1 (by omega)
  have hrow := hw.rowInRange
  obtain ⟨hpos, hrows, -, -⟩ := hs.legal
  rcases execLoopRow_next.1 h with ⟨hlast, rfl⟩ | ⟨hmore, rfl⟩
  · have hupc : (s.setRow 0#16).advance.upc.toNat = s.upc.toNat + 1 := index_succ_toNat (x := s.upc) (by omega)
    have hnone : (s.setRow 0#16).advance.captured = 0 := by rw [State.captured, hupc, hat]; rfl
    constructor
    case rowInRange => exact hpos
    case allDone => exact fun _ => ⟨hlast ▸ haddr, rfl, hword⟩
    case noToken => exact fun _ => htok
    case chipEnable => exact iff_of_false hce (by omega)
    case outputEnable => exact iff_of_false hoe (by omega)
    all_goals omega
  · have hupc : ((s.setRow (s.row + 1#16)).branch (branchTarget 0x05#8)).upc.toNat = 0x05 := rfl
    have hnext : (s.row + 1#16).toNat = s.row.toNat + 1 := by bv_omega
    have hnone : ((s.setRow (s.row + 1#16)).branch (branchTarget 0x05#8)).captured = 0 := rfl
    constructor
    case rowInRange => exact show (s.row + 1#16).toNat < s.params.numRows by omega
    case rowStart => exact fun _ => ⟨hnext ▸ haddr, hword⟩
    case noToken => exact fun _ => htok
    case chipEnable => exact iff_of_false hce (by omega)
    case outputEnable => exact iff_of_false hoe (by omega)
    all_goals omega

/-! ### The three agents -/

/-- Outside the part that reads a row the fixed program has transmit micro-ops, but for two loops and the end. -/
theorem programOps_mem_transmitOps : ∀ u : Fin 31, ¬ (0x05 ≤ u.val ∧ u.val ≤ 0x13) →
    u.val ≠ 0x18 ∧ u.val ≠ 0x1D ∧ u.val ≠ 0x1E → programOps.getD u .idle ∈ transmitOps := by
  decide

/-- A transmit micro-op of the fixed program keeps the walk invariant: it stays where it is, or goes on. -/
theorem walk_of_transmitOp (hi : i ∈ transmitOps) (hout : ¬ s.At 0x05 0x13) (hle : s.upc.toNat ≤ 0x1C)
    (hloop : s.upc.toNat ≠ 0x18) (hw : s.Walk) (h : exec i s = .next t) : t.Walk := by
  rcases exec_withTransmit hi h with hstay | hnext
  · rw [hstay]
    exact hw.withTransmit t
  · have hread : s.upc.toNat ≠ 0x11 := by omega
    rw [hnext]
    exact (State.walksOn_advance (s := s.withTransmit t) hout).walk (hw.withTransmit t) hle ⟨hread, hloop⟩

/-- Every SEQ step keeps the walk invariant: place by place of the fixed program. -/
theorem walk_of_seqStep (hs : s.Fixed) (hw : s.Walk) (h : seqStep s = .next t) : t.Walk := by
  have hle := hs.inProgram
  rw [seqStep_fixed hs.store hle] at h
  by_cases hword : s.upc.toNat = 0x11
  · rw [hword] at h
    exact walk_of_loopWord hword hw h
  by_cases htok : s.upc.toNat = 0x18
  · rw [htok] at h
    exact walk_of_loopTok htok hw h
  by_cases hrow : s.upc.toNat = 0x1D
  · rw [hrow] at h
    exact walk_of_loopRow hrow hs hw h
  by_cases hend : s.upc.toNat = 0x1E
  · rw [hend] at h
    obtain rfl := next_eq.1 h
    exact hw
  by_cases hread : s.At 0x05 0x13
  · exact (walksOn_of_exec hread hword h).walk hw (by omega) ⟨hword, htok⟩
  · exact walk_of_transmitOp (programOps_mem_transmitOps ⟨_, Nat.lt_succ_of_le hle⟩ hread ⟨htok, hrow, hend⟩) hread
      (by omega) htok hw h

/-- Settles O49: SEQ's step keeps the invariant, and the other agents and passing the turn write nothing it looks at. -/
theorem walkInvariantIsKept : Obligations.WalkInvariantIsKept := by
  intro s t hs hw h
  obtain ⟨-, u, rfl, hu⟩ := step_next h
  have hkept : u.Walk := by
    rcases hu with ⟨-, hseq⟩ | ⟨-, -, -, htxc⟩ | ⟨-, -, hser⟩
    · exact walk_of_seqStep hs hw hseq
    · exact execTxc_withTransmit htxc ▸ hw.withTransmit u
    · exact serStep_withTransmit hser ▸ hw.withTransmit u
  exact hkept.withTransmit (u.passTurn s.mover)

end Sys2Proof.Machine
end

section
/-!
The exceptions family: when each agent has a step, what a raised fault stops, and who touches the notification
(60_exceptions.md sections 1, 2, 4 and 5).
-/
namespace Sys2Proof.Machine
variable {a : Agent} {i : Instr} {s t u : State}

/-! ### When each agent has a step (60_exceptions.md R287, R296, R297; 42_sequencing.md R240) -/

theorem State.serReadyEnabled_iff :
    s.serReadyEnabled = true ↔ s.serOn = true ∧ s.inflight = none ∧ s.ready = false ∧ s.fault = none := by
  simp [State.serReadyEnabled, and_assoc]

theorem State.serShiftEnabled_iff : s.serShiftEnabled = true ↔ (∃ u, s.inflight = some u) ∧ s.fault = none := by
  simp [State.serShiftEnabled, Option.isSome_iff_exists]

theorem State.enabled_txc_iff : s.enabled .txc = true ↔ s.tcPend = true ∧ s.im = false ∧ s.fault = none := by
  simp [State.enabled, State.txcEnabled, and_assoc]

theorem State.enabled_ser_iff :
    s.enabled .ser = true ↔
      (s.serOn = true ∧ s.inflight = none ∧ s.ready = false ∧ s.fault = none) ∨
        ((∃ u, s.inflight = some u) ∧ s.fault = none) := by
  rw [State.enabled, Bool.or_eq_true, State.serReadyEnabled_iff, State.serShiftEnabled_iff]

theorem State.enabled_seq_iff : s.enabled .seq = true ↔ s.fault = none := Option.isNone_iff_eq_none

/-- Settles O8: the three agents' conditions, each read off its definition. -/
theorem enablingConditions : Obligations.EnablingConditions := fun _ =>
  ⟨State.enabled_txc_iff, State.enabled_ser_iff, State.enabled_seq_iff⟩

/-- Settles O27: the two conditions, and the three cases of the transmitter's step. -/
theorem transmitterSteps : Obligations.TransmitterSteps :=
  ⟨fun _ => State.serReadyEnabled_iff, fun _ => State.serShiftEnabled_iff,
    fun _ hempty => serStep_next.2 (.inr (.inr ⟨hempty, rfl⟩)),
    fun _ b hflight hlatched => serStep_next.2 (.inl ⟨b, hflight, hlatched, rfl⟩),
    fun _ b hflight hquiet => serStep_next.2 (.inr (.inl ⟨b, hflight, hquiet, rfl⟩))⟩

/-- No agent has a step once a fault is marked. -/
theorem State.enabled_eq_false_of_fault (hf : s.fault ≠ none) (a : Agent) : s.enabled a = false := by
  rw [← Bool.not_eq_true]
  cases a with
  | seq => exact fun he => hf (State.enabled_seq_iff.1 he)
  | txc => exact fun he => hf (State.enabled_txc_iff.1 he).2.2
  | ser => exact fun he => hf ((State.enabled_ser_iff.1 he).elim (fun h => h.2.2.2) (fun h => h.2))

/-! ### Raising a fault (60_exceptions.md R282) -/

/-- `t` comes from `s` by a raise, which writes `FAULT` only, or has the mark `s` has. -/
def State.MarksOnly (s t : State) : Prop := (∃ r, t = s.markFault r) ∨ t.fault = s.fault

theorem serPush_marksOnly {who : Agent} {b : Byte} {f : State → State} (h : serPush who b f s = .next t)
    (hf : ∀ v, (f v).fault = v.fault) : s.MarksOnly t := by
  rcases serPush_next.1 h with ⟨-, -, rfl⟩ | ⟨-, rfl⟩
  · exact .inr (hf _)
  · exact .inl ⟨_, rfl⟩

theorem loadMessage_marksOnly {m : List Byte} (h : loadMessage m s = .next t) : s.MarksOnly t := by
  rcases loadMessage_next.1 h with ⟨-, rfl⟩ | ⟨-, -, rfl⟩ | ⟨-, -, rfl⟩
  · exact .inl ⟨_, rfl⟩
  · exact .inl ⟨_, rfl⟩
  · exact .inr rfl

/-- A micro-op that raises writes nothing but the mark; by the access map only five can. -/
theorem exec_marksOnly (h : exec i s = .next t) : s.MarksOnly t := by
  rcases (exec_writesAsListed h).fault with hsame | hi
  · exact .inr hsame
  simp only [List.mem_cons, List.not_mem_nil, or_false] at hi
  rcases hi with rfl | rfl | rfl | rfl | rfl
  · exact loadMessage_marksOnly h
  · exact loadMessage_marksOnly h
  · exact loadMessage_marksOnly h
  · rcases execTxPush0_next.1 h with ⟨-, rfl⟩ | ⟨-, hpush⟩
    · exact .inl ⟨_, rfl⟩
    · exact serPush_marksOnly hpush fun _ => rfl
  · rcases execTxc_next.1 h with ⟨-, -, rfl⟩ | ⟨-, -, hpush⟩ | ⟨-, rfl⟩
    · exact .inl ⟨_, rfl⟩
    · exact serPush_marksOnly hpush fun _ => rfl
    · exact .inr rfl

/-- A step of any agent that raises writes nothing but the mark. -/
theorem agentStep_marksOnly (h : agentStep a s = .next t) : s.MarksOnly t := by
  cases a with
  | seq =>
    rcases seqStep_next.1 h with ⟨i, -, he⟩ | ⟨-, -, rfl⟩
    · exact exec_marksOnly he
    · exact .inl ⟨_, rfl⟩
  | txc => exact exec_marksOnly (i := .txc) h
  | ser =>
    rcases serStep_next.1 h with ⟨b, -, -, rfl⟩ | ⟨b, -, -, rfl⟩ | ⟨-, rfl⟩
    · exact .inl ⟨_, rfl⟩
    · exact .inr rfl
    · exact .inr rfl

/-- Settles O9: a step from an unmarked state that leaves a mark is a raise; and a marked state is stopped. -/
theorem faultsStickAndStopEverything : Obligations.FaultsStickAndStopEverything := by
  refine ⟨fun a s t hf h hmark => ?_, fun s r hr => ⟨?_, ?_, ?_⟩⟩
  · rcases agentStep_marksOnly h with ⟨r, rfl⟩ | hsame
    · rfl
    · exact absurd (hsame.trans hf) hmark
  · rw [step, hr]
  · exact State.enabled_eq_false_of_fault (by simp [hr])
  · rintro ⟨-, -, -, -, hnone⟩
    exact absurd (hr.symm.trans hnone) nofun

/-! ### The notification (60_exceptions.md R286) -/

/-- An invocation of the handler consumes the notification, or raises. -/
theorem execTxc_consumes (h : execTxc s = .next t) : t.tcPend = false ∨ ∃ r, t = s.markFault r := by
  rcases execTxc_next.1 h with ⟨-, -, rfl⟩ | ⟨-, -, hpush⟩ | ⟨-, rfl⟩
  · exact .inr ⟨_, rfl⟩
  · rcases serPush_next.1 hpush with ⟨-, -, rfl⟩ | ⟨-, rfl⟩
    · exact .inl rfl
    · exact .inr ⟨_, rfl⟩
  · exact .inl rfl

/-- Every step leaves `TC_PEND`, or it is a shift, which sets it, or the handler's, which clears it. -/
theorem step_tcPend (h : step s = .next t) :
    t.tcPend = s.tcPend ∨ (s.mover = .ser ∧ s.inflight ≠ none ∧ t.tcPend = true) ∨
      (s.mover = .txc ∧ t.tcPend = false) := by
  obtain ⟨u, rfl, ⟨r, rfl⟩ | ⟨-, i, hi, he⟩ | ⟨hm, he⟩ | ⟨hm, b, hb, rfl⟩ | ⟨-, rfl⟩⟩ := step_writes h
  · exact .inl rfl
  · obtain ⟨-, hne⟩ := decodeFetched_ok.1 hi
    exact .inl ((exec_writesAsListed he).tcPend.resolve_right hne)
  · rcases execTxc_consumes he with hclear | ⟨r, rfl⟩
    · exact .inr (.inr ⟨hm, hclear⟩)
    · exact .inl rfl
  · exact .inr (.inl ⟨hm, by simp [hb], rfl⟩)
  · exact .inl rfl

/-- `s` with all that no micro-op SEQ runs reads or writes as `t` has it: the notification and the schedule's own
fields. -/
def State.withUnread (s t : State) : State := { s.withSchedule t with tcPend := t.tcPend }

theorem loadMessage_withUnread {m : List Byte} (h : loadMessage m s = .next u) (t : State) :
    loadMessage m (s.withUnread t) = .next (u.withUnread t) := by
  rcases loadMessage_next.1 h with ⟨hbusy, rfl⟩ | ⟨hfree, hlong, rfl⟩ | ⟨hfree, hfits, rfl⟩
  · exact loadMessage_next.2 (.inl ⟨hbusy, rfl⟩)
  · exact loadMessage_next.2 (.inr (.inl ⟨hfree, hlong, rfl⟩))
  · exact loadMessage_next.2 (.inr (.inr ⟨hfree, hfits, rfl⟩))

theorem execTxPush0_withUnread (h : execTxPush0 s = .next u) (t : State) :
    execTxPush0 (s.withUnread t) = .next (u.withUnread t) := by
  rcases execTxPush0_next.1 h with ⟨hfree, rfl⟩ | ⟨hbusy, hpush⟩
  · exact execTxPush0_next.2 (.inl ⟨hfree, rfl⟩)
  · refine execTxPush0_next.2 (.inr ⟨hbusy, ?_⟩)
    rcases serPush_next.1 hpush with ⟨hready, hempty, rfl⟩ | ⟨hover, rfl⟩
    · exact serPush_next.2 (.inl ⟨hready, hempty, rfl⟩)
    · exact serPush_next.2 (.inr ⟨hover, rfl⟩)

/-- A micro-op other than TXC does the same whatever the notification and the schedule are. -/
theorem exec_withUnread (hne : i ≠ .txc) (h : exec i s = .next u) (t : State) :
    exec i (s.withUnread t) = .next (u.withUnread t) := by
  cases i
  case txc => exact absurd rfl hne
  case txClaim =>
    rcases execTxClaim_next.1 h with ⟨hbusy, rfl⟩ | ⟨hfree, rfl⟩
    · exact execTxClaim_next.2 (.inl ⟨hbusy, rfl⟩)
    · exact execTxClaim_next.2 (.inr ⟨hfree, rfl⟩)
  case txLoadBanner | txLoadHex | txLoadCrlf => exact loadMessage_withUnread h t
  case txWaitRdy =>
    rcases execTxWaitRdy_next.1 h with ⟨hready, rfl⟩ | ⟨hwait, rfl⟩
    · exact execTxWaitRdy_next.2 (.inl ⟨hready, rfl⟩)
    · exact execTxWaitRdy_next.2 (.inr ⟨hwait, rfl⟩)
  case txPush0 => exact execTxPush0_withUnread h t
  case loopWord =>
    rcases execLoopWord_next.1 h with ⟨hlast, rfl⟩ | ⟨hmore, rfl⟩
    · exact execLoopWord_next.2 (.inl ⟨hlast, rfl⟩)
    · exact execLoopWord_next.2 (.inr ⟨hmore, rfl⟩)
  case loopTok =>
    rcases execLoopTok_next.1 h with ⟨hlast, rfl⟩ | ⟨hmore, rfl⟩
    · exact execLoopTok_next.2 (.inl ⟨hlast, rfl⟩)
    · exact execLoopTok_next.2 (.inr ⟨hmore, rfl⟩)
  case loopRow =>
    rcases execLoopRow_next.1 h with ⟨hlast, rfl⟩ | ⟨hmore, rfl⟩
    · exact execLoopRow_next.2 (.inl ⟨hlast, rfl⟩)
    · exact execLoopRow_next.2 (.inr ⟨hmore, rfl⟩)
  all_goals
    obtain rfl := next_eq.1 h
    rfl

/-- A micro-op leaves the schedule's own fields. -/
theorem exec_withSchedule_self (h : exec i s = .next t) : t.withSchedule s = t := by
  have w := exec_writesAsListed h
  rw [State.withSchedule, ← w.turn, ← w.clock, ← w.txcWait, ← w.seqWait]

/-- Settles O42: of the agents' steps only the shift sets `TC_PEND` and only the handler's clears it; and no other
micro-op reads or writes it. -/
theorem notificationIsPrivateToShiftAndHandler : Obligations.NotificationIsPrivateToShiftAndHandler := by
  refine ⟨fun s t h => ?_, fun i s t b hne h => ⟨(exec_writesAsListed h).tcPend.resolve_right hne, ?_⟩⟩
  · rcases step_tcPend h with hsame | ⟨hm, hflight, hset⟩ | ⟨hm, hclear⟩
    · exact ⟨fun h0 h1 => absurd (hsame.trans h0) (by simp [h1]), fun h1 h0 => absurd (hsame.trans h1) (by simp [h0])⟩
    · exact ⟨fun _ _ => ⟨hm, hflight⟩, fun _ h0 => absurd hset (by simp [h0])⟩
    · exact ⟨fun _ h1 => absurd hclear (by simp [h1]), fun _ _ => hm⟩
  · have hunread : exec i { s with tcPend := b } = .next { t.withSchedule s with tcPend := b } :=
      exec_withUnread hne h { s with tcPend := b }
    rw [hunread, exec_withSchedule_self h]

/-! ### The handler and the end of a run (60_exceptions.md R288, R289, R304) -/

/-- Settles O43: a step of the handler is its action, which writes transmit state only, and passing the turn. -/
theorem handlerLeavesTheSequencerAlone : Obligations.HandlerLeavesTheSequencerAlone := by
  intro s t hm h
  obtain ⟨-, u, rfl, ⟨hseq, -⟩ | ⟨-, -, -, htxc⟩ | ⟨hser, -⟩⟩ := step_next h
  · exact absurd (hm.symm.trans hseq) nofun
  · rw [execTxc_frame htxc]
    rfl
  · exact absurd (hm.symm.trans hser) nofun

/-- Settles O46: an ended state has nothing for the handler and the transmitter to do, so SEQ moves, and the program's
last place holds IDLE. -/
theorem endedMachineOnlyIdles : Obligations.EndedMachineOnlyIdles := by
  refine ⟨fun s hcs hend hready => ?_, fun s hp hend => ?_⟩
  · obtain ⟨hupc, hbusy, hempty, hquiet, hf⟩ := hend
    have htxc : s.enabled .txc = false := by simp [State.enabled, State.txcEnabled, hquiet]
    have hser : s.enabled .ser = false := by
      simp [State.enabled, State.serReadyEnabled, State.serShiftEnabled, hempty, hready]
    have hidle : seqStep s = .next s := by
      rw [seqStep_fixed hcs (by simp [hupc]), hupc]
      rfl
    refine ⟨htxc, hser, ?_, hupc, hbusy, hempty, hquiet, hf⟩
    rw [step_eq hf, State.mover_of_others_off htxc hser, agentStep, hidle, thenPassTurn]
  · obtain ⟨hupc, -, hempty, -, -⟩ := hend
    exact hp.readyOnceStarted (by simp [hupc]) hempty

end Sys2Proof.Machine
end

section
/-!
The exceptions family, over runs: the fairness of the block and stuck runs (60_exceptions.md R292, R298, R304).
-/
namespace Sys2Proof.Machine
variable {a : Agent} {s t u : State}

/-! ### Runs -/

theorem State.trace_succ_of_step (h : step s = .next t) (n : Nat) : s.trace (n + 1) = t.trace n := by
  induction n with
  | zero => simp only [State.trace, State.after, h]
  | succ n ih => exact congrArg State.after ih

theorem State.trace_add (s : State) (m n : Nat) : s.trace (m + n) = (s.trace m).trace n := by
  induction n with
  | zero => rfl
  | succ n ih => exact congrArg State.after ih

/-- After `n` steps of the run `a` is the mover, or a fault has stopped the run. -/
def State.MovesOrFaults (s : State) (a : Agent) (n : Nat) : Prop := (s.trace n).mover = a ∨ (s.trace n).fault ≠ none

theorem State.movesOrFaults_succ {n : Nat} (h : step s = .next t) :
    s.MovesOrFaults a (n + 1) ↔ t.MovesOrFaults a n := by
  rw [State.MovesOrFaults, State.trace_succ_of_step h, State.MovesOrFaults]

/-- A run is fair to an agent that, wherever it is enabled, moves later on unless a fault stops the run. -/
theorem fairTo_of_movesOrFaults (h : ∀ s : State, s.enabled a = true → ∃ n, s.MovesOrFaults a n) (s : State) :
    FairTo a s.trace := by
  intro n
  cases he : (s.trace n).enabled a with
  | false => exact ⟨n, le_rfl, .inl he⟩
  | true =>
    obtain ⟨k, hk⟩ := h _ he
    rw [State.MovesOrFaults, ← State.trace_add] at hk
    exact ⟨n + k, Nat.le_add_right n k, hk.symm.imp_left fun hf => State.enabled_eq_false_of_fault hf a⟩

/-! ### The bounds on waiting (60_exceptions.md R292; log entry 5) -/

/-- An enabled handler that has waited as long as it can is due. -/
theorem State.txcDue_of_enabled (he : s.enabled .txc = true) (hw : s.txcWait = 0) : s.txcDue = true := by
  have hon : s.txcEnabled = true := he
  simp [State.txcDue, hon, hw]

/-- A handler that is not enabled is not due. -/
theorem State.txcDue_eq_false_of_off (hoff : s.enabled .txc = false) : s.txcDue = false := by
  have hoff' : s.txcEnabled = false := hoff
  simp [State.txcDue, hoff']

/-- An agent's step leaves the schedule's own fields. -/
theorem agentStep_withSchedule_self (h : agentStep a s = .next t) : t.withSchedule s = t := by
  cases a with
  | seq =>
    rcases seqStep_next.1 h with ⟨i, -, he⟩ | ⟨-, -, rfl⟩
    · exact exec_withSchedule_self he
    · rfl
  | txc => exact exec_withSchedule_self (i := .txc) h
  | ser => rcases serStep_next.1 h with ⟨b, -, -, rfl⟩ | ⟨b, -, -, rfl⟩ | ⟨-, rfl⟩ <;> rfl

/-- While no fault is marked a step is the mover's, from which the turn passes. -/
theorem step_agentStep (h : step s = .next t) : ∃ u, agentStep s.mover s = .next u ∧ t = u.passTurn s.mover := by
  obtain ⟨-, u, ht, ⟨hm, hu⟩ | ⟨hm, -, -, hu⟩ | ⟨hm, -, hu⟩⟩ := step_next h <;> exact ⟨u, by rw [hm]; exact hu, ht⟩

/-- A step of another agent after which TXC is enabled takes one from its bound. -/
theorem step_txcWait (hm : s.mover ≠ .txc) (he : t.enabled .txc = true) (h : step s = .next t) :
    t.txcWait = s.txcWait - 1 := by
  obtain ⟨u, hu, rfl⟩ := step_agentStep h
  have hon : u.txcEnabled = true := he
  rw [State.passTurn_txcWait, if_pos ⟨hon, hm⟩, ← agentStep_withSchedule_self hu, State.withSchedule_txcWait]

/-- A step of another agent takes one from the bound of SEQ. -/
theorem step_seqWait (hm : s.mover ≠ .seq) (h : step s = .next t) : t.seqWait = s.seqWait - 1 := by
  obtain ⟨u, hu, rfl⟩ := step_agentStep h
  rw [State.passTurn_seqWait, if_neg hm, ← agentStep_withSchedule_self hu, State.withSchedule_seqWait]

/-- A handler that does not move stays enabled, unless a fault stops the run. -/
theorem step_keeps_enabled_txc (hm : s.mover ≠ .txc) (he : s.enabled .txc = true) (h : step s = .next t)
    (hf : t.fault = none) : t.enabled .txc = true := by
  obtain ⟨hpend, him, -⟩ := State.enabled_txc_iff.1 he
  refine State.enabled_txc_iff.2 ⟨?_, maskIsOpenBetweenSteps.1 s t him h, hf⟩
  rcases step_tcPend h with hsame | ⟨-, -, hset⟩ | ⟨htxc, -⟩
  · exact hsame.trans hpend
  · exact hset
  · exact absurd htxc hm

/-- After its own step the handler is not enabled: it has consumed its notification, or a fault is marked. -/
theorem step_disables_txc (hm : s.mover = .txc) (h : step s = .next t) : t.enabled .txc = false := by
  obtain ⟨u, hu, rfl⟩ := step_agentStep h
  rw [hm] at hu
  rcases execTxc_consumes hu with hclear | ⟨r, rfl⟩
  · simp [State.enabled, State.txcEnabled, hclear]
  · exact State.enabled_eq_false_of_fault (by simp) .txc

/-- An enabled handler moves within its bound, unless a fault stops the run: while it waits the bound goes down, and at
none left it is due. -/
theorem txc_movesOrFaults {w : Nat} (hw : s.txcWait = w) (he : s.enabled .txc = true) :
    ∃ n, n ≤ w ∧ s.MovesOrFaults .txc n := by
  induction w generalizing s with
  | zero => exact ⟨0, le_rfl, .inl (State.mover_of_txcDue (State.txcDue_of_enabled he hw))⟩
  | succ w ih =>
    by_cases hm : s.mover = .txc
    · exact ⟨0, Nat.zero_le _, .inl hm⟩
    obtain ⟨-, -, hf⟩ := State.enabled_txc_iff.1 he
    obtain ⟨t, ht⟩ := stepAlwaysAnswers s hf
    by_cases hft : t.fault = none
    · have het := step_keeps_enabled_txc hm he ht hft
      have hwt : t.txcWait = w := by rw [step_txcWait hm het ht, hw, Nat.add_sub_cancel]
      obtain ⟨n, hn, hmove⟩ := ih hwt het
      exact ⟨n + 1, Nat.succ_le_succ hn, (State.movesOrFaults_succ ht).2 hmove⟩
    · exact ⟨1, Nat.succ_le_succ (Nat.zero_le w), (State.movesOrFaults_succ ht).2 (.inr hft)⟩

/-- SEQ moves later on, unless a fault stops the run: while it waits its bound goes down, and at none left only a due
handler goes before it, once. -/
theorem seq_movesOrFaults {w : Nat} (hw : s.seqWait = w) : ∃ n, s.MovesOrFaults .seq n := by
  induction w generalizing s with
  | zero =>
    by_cases hf : s.fault = none
    · cases hd : s.txcDue with
      | false => exact ⟨0, .inl (State.mover_of_seqDue hd hw)⟩
      | true =>
        have hm : s.mover = .txc := State.mover_of_txcDue hd
        obtain ⟨t, ht⟩ := stepAlwaysAnswers s hf
        have hdue : t.txcDue = false := State.txcDue_eq_false_of_off (step_disables_txc hm ht)
        have hwt : t.seqWait = 0 := by rw [step_seqWait (by simp [hm]) ht, hw]
        exact ⟨1, (State.movesOrFaults_succ ht).2 (.inl (State.mover_of_seqDue hdue hwt))⟩
    · exact ⟨0, .inr hf⟩
  | succ w ih =>
    by_cases hf : s.fault = none
    · by_cases hm : s.mover = .seq
      · exact ⟨0, .inl hm⟩
      · obtain ⟨t, ht⟩ := stepAlwaysAnswers s hf
        obtain ⟨n, hn⟩ := ih (by rw [step_seqWait hm ht, hw, Nat.add_sub_cancel])
        exact ⟨n + 1, (State.movesOrFaults_succ ht).2 hn⟩
    · exact ⟨0, .inr hf⟩

/-- Settles O55: both agents' waits end, the handler's within its bound. -/
theorem blockIsFairOnEveryRun : Obligations.BlockIsFairOnEveryRun := by
  have htxc (s : State) (he : s.enabled .txc = true) : ∃ n, n ≤ s.txcWait ∧ s.MovesOrFaults .txc n :=
    txc_movesOrFaults rfl he
  refine ⟨fun s => ⟨fairTo_of_movesOrFaults (fun r he => ?_) s, fairTo_of_movesOrFaults (fun r _ => ?_) s⟩, htxc⟩
  · exact (htxc r he).imp fun _ h => h.2
  · exact seq_movesOrFaults rfl

/-! ### Spins and stuck runs (60_exceptions.md R298, R304) -/

/-- A spin runs a micro-op that answers the same state, since no fault is marked. -/
theorem State.Spinning.exec_self (hs : s.Spinning) :
    ∃ i, decodeFetched s.fetchWord = .ok i ∧ i ≠ .txc ∧ exec i s = .next s := by
  rcases seqStep_next.1 hs.spin with ⟨i, hi, he⟩ | ⟨-, -, hmark⟩
  · exact ⟨i, hi, (decodeFetched_ok.1 hi).2, he⟩
  · exact absurd ((congrArg State.fault hmark).symm.trans hs.noFault) nofun

/-- A spin does not depend on the schedule's own fields. -/
theorem State.Spinning.withSchedule (hs : s.Spinning) (t : State) : (s.withSchedule t).Spinning where
  noFault := hs.noFault
  notEnded := hs.notEnded
  handlerOff := hs.handlerOff
  spin := by
    obtain ⟨i, hi, hne, he⟩ := hs.exec_self
    exact seqStep_next.2 (.inl ⟨i, hi, exec_withUnread hne he { t with tcPend := s.tcPend }⟩)

/-- Whatever the schedule, a spin the transmitter does not take the next step of goes on. -/
theorem State.Spinning.after (hs : s.Spinning) (hm : s.mover ≠ .ser) : s.after = s.passTurn .seq := by
  rcases s.mover_cases with hseq | ⟨-, he⟩ | ⟨hser, -⟩
  · exact State.after_spin hs.noFault hseq hs.spin
  · exact absurd (hs.handlerOff.symm.trans he) nofun
  · exact absurd hser hm

/-- A spin goes on for as long as the transmitter does not move. -/
theorem State.Spinning.trace (hs : s.Spinning) {n : Nat} (hm : ∀ k, k < n → (s.trace k).mover ≠ .ser) :
    s.trace n = s.withSchedule (s.trace n) ∧ (s.trace n).Spinning := by
  induction n with
  | zero => exact ⟨rfl, hs⟩
  | succ n ih =>
    obtain ⟨hsame, hspin⟩ := ih fun k hk => hm k (Nat.lt_succ_of_lt hk)
    have hnext : s.trace (n + 1) = s.withSchedule (s.trace (n + 1)) := by
      rw [State.trace, hspin.after (hm n n.lt_succ_self), hsame]
      rfl
    exact ⟨hnext, hnext ▸ hs.withSchedule _⟩

/-- Settles O57: a spin goes on until the transmitter moves, which it never does if it has no step in the spin's state,
for the schedule's own fields give it none. -/
theorem spinsLastUntilTheTransmitterMoves : Obligations.SpinsLastUntilTheTransmitterMoves := by
  refine fun s hs => ⟨fun hoff => ⟨hs, fun n => ?_⟩, fun _ => hs.trace⟩
  induction n using Nat.strong_induction_on with
  | _ n ih =>
    obtain ⟨hsame, hspin⟩ := hs.trace ih
    have hoff' : (s.trace n).enabled .ser = false := hsame ▸ (State.enabled_withSchedule ..).trans hoff
    rw [State.mover_of_others_off hspin.handlerOff hoff']
    exact nofun

/-- Settles O56: a stuck run is a spin that goes on for ever; were it fair to the transmitter, which never moves, the
transmitter would have no step. -/
theorem stuckRunsNeverMoveOn : Obligations.StuckRunsNeverMoveOn := by
  intro s hs
  have hgoes (n : Nat) : s.trace n = s.withSchedule (s.trace n) ∧ (s.trace n).Spinning :=
    hs.toSpinning.trace fun k _ => hs.serNeverMoves k
  refine ⟨fun n => (hgoes n).imp_right State.Spinning.notEnded, fun hlive => ?_⟩
  obtain ⟨m, -, hoff | hmoves⟩ := hlive 0
  · rw [(hgoes m).1] at hoff
    exact (State.enabled_withSchedule ..).symm.trans hoff
  · exact absurd hmoves (hs.serNeverMoves m)

end Sys2Proof.Machine
end

section
/-!
The reset family: the reset table, and that the registers it leaves unspecified never show
(70_reset_and_hazards.md section 1).
-/
namespace Sys2Proof.Machine
variable {i : Instr} {s t u v : State}

/-! ### The reset state (70_reset_and_hazards.md R321) -/

/-- Settles O32: the fields of the reset state. -/
theorem resetValues : Obligations.ResetValues := by
  intro u p
  and_intros <;> rfl

/-- The hardware's parameters meet the constraints of R11 and R13 whatever the OPEN ones are. -/
theorem hardwareParams_legal : Config.params.Legal :=
  ⟨by decide, by decide, Nat.le_add_left 11 _, Nat.succ_pos _⟩

/-- Settles O33: the zeros are those of the model's choice, and the parameters are legal. -/
theorem resetIsAnInstanceOfTheTable : Obligations.ResetIsAnInstanceOfTheTable := by
  refine ⟨rfl, by decide, hardwareParams_legal, fun _ => rfl, fun i => ?_⟩
  exact Vector.getElem_replicate i.isLt

/-! ### The invariants at reset (42_sequencing.md R246) -/

section AtReset
variable (u : Unspecified) {p : Params} (hp : p.Legal)
include hp

theorem State.resetWith_fixed : (State.resetWith u p).Fixed := ⟨rfl, rfl, Nat.zero_le _, hp⟩

/-- At reset nothing is loaded, in flight or notified. -/
theorem State.resetWith_pipeline : (State.resetWith u p).Pipeline := by
  have hupc : (State.resetWith u p).upc.toNat = 0 := rfl
  constructor
  case rowInRange => exact hp.1
  case beforeRows | noToken | unmasked | drained | atLoad => intros; rfl
  case notBusy => exact fun _ => ⟨rfl, rfl⟩
  case inFlight => exact fun hflight => absurd rfl hflight
  case notified | counts => exact nofun
  all_goals omega

/-- At reset the walk is before its first row, with both enables off. -/
theorem State.resetWith_walk : (State.resetWith u p).Walk := by
  have hupc : (State.resetWith u p).upc.toNat = 0 := rfl
  constructor
  case rowInRange => exact hp.1
  case beforeRows | noToken => intros; rfl
  case rowStart => exact fun _ => ⟨rfl, rfl⟩
  case chipEnable | outputEnable => exact iff_of_false nofun (by omega)
  case bytes => exact fun _ k hk => absurd hk k.val.not_lt_zero
  all_goals omega

end AtReset

/-- Settles O51: the four invariants at reset; the line and the buffer's units are empty, and nothing is loaded. -/
theorem invariantsHoldAtReset : Obligations.InvariantsHoldAtReset := fun u _ hp =>
  ⟨State.resetWith_fixed u hp, State.resetWith_pipeline u hp, State.resetWith_walk u hp, rfl⟩

/-! ### Reading the unspecified registers (70_reset_and_hazards.md R322) -/

/-- `s` with the registers that R321 leaves unspecified as `t` has them. -/
def State.withUnspecified (s t : State) : State :=
  { s with cap := t.cap, stb := t.stb, pinAlo := t.pinAlo, pinAmid := t.pinAmid, pinAhi := t.pinAhi, txbuf := t.txbuf }

/-- The micro-ops other than the loads, TX_PUSH0 and TXC pass nothing of the unspecified registers on to another
register. -/
theorem exec_withUnspecified (hi : i ∉ [Instr.txLoadBanner, .txLoadHex, .txLoadCrlf, .txPush0, .txc])
    (h : exec i s = .next u) (t : State) : ∃ v, exec i (s.withUnspecified t) = .next (u.withUnspecified v) := by
  cases i
  case txLoadBanner | txLoadHex | txLoadCrlf | txPush0 | txc => simp at hi
  case txClaim =>
    rcases execTxClaim_next.1 h with ⟨hbusy, rfl⟩ | ⟨hfree, rfl⟩
    · exact ⟨t, execTxClaim_next.2 (.inl ⟨hbusy, rfl⟩)⟩
    · exact ⟨t, execTxClaim_next.2 (.inr ⟨hfree, rfl⟩)⟩
  case txWaitRdy =>
    rcases execTxWaitRdy_next.1 h with ⟨hready, rfl⟩ | ⟨hwait, rfl⟩
    · exact ⟨t, execTxWaitRdy_next.2 (.inl ⟨hready, rfl⟩)⟩
    · exact ⟨t, execTxWaitRdy_next.2 (.inr ⟨hwait, rfl⟩)⟩
  case loopWord =>
    rcases execLoopWord_next.1 h with ⟨hlast, rfl⟩ | ⟨hmore, rfl⟩
    · exact ⟨t, execLoopWord_next.2 (.inl ⟨hlast, rfl⟩)⟩
    · exact ⟨t, execLoopWord_next.2 (.inr ⟨hmore, rfl⟩)⟩
  case loopTok =>
    rcases execLoopTok_next.1 h with ⟨hlast, rfl⟩ | ⟨hmore, rfl⟩
    · exact ⟨t, execLoopTok_next.2 (.inl ⟨hlast, rfl⟩)⟩
    · exact ⟨t, execLoopTok_next.2 (.inr ⟨hmore, rfl⟩)⟩
  case loopRow =>
    rcases execLoopRow_next.1 h with ⟨hlast, rfl⟩ | ⟨hmore, rfl⟩
    · exact ⟨t, execLoopRow_next.2 (.inl ⟨hlast, rfl⟩)⟩
    · exact ⟨t, execLoopRow_next.2 (.inr ⟨hmore, rfl⟩)⟩
  all_goals
    obtain ⟨v, hv⟩ := exec_answers _ (s.withUnspecified t)
    refine ⟨v, hv.trans ?_⟩
    obtain rfl := next_eq.1 h
    obtain rfl := next_eq.1 hv
    rfl

/-! ### Runs of the fixed program -/

/-- `s` meets the fixed-program, pipeline and walk invariants: it can stand on a run of the fixed micro-program. -/
structure State.OnProgram (s : State) : Prop where
  fixed : s.Fixed
  pipeline : s.Pipeline
  walk : s.Walk

theorem State.OnProgram.of_step (hs : s.OnProgram) (h : step s = .next t) : t.OnProgram := by
  obtain ⟨hfixed, hpipeline⟩ := pipelineInvariantIsKept s t hs.fixed hs.pipeline h
  exact ⟨hfixed, hpipeline, walkInvariantIsKept s t hs.fixed hs.walk h⟩

/-- On the fixed program every state has a next one, which is on the program too. -/
theorem State.OnProgram.step_after (hs : s.OnProgram) : step s = .next s.after ∧ s.after.OnProgram := by
  obtain ⟨t, ht⟩ := stepAlwaysAnswers s hs.fixed.noFault
  have hafter : s.after = t := by rw [State.after, ht]
  rw [hafter]
  exact ⟨ht, hs.of_step ht⟩

theorem State.OnProgram.trace (hs : s.OnProgram) (n : Nat) : (s.trace n).OnProgram := by
  induction n with
  | zero => exact hs
  | succ n ih => exact ih.step_after.2

theorem State.resetWith_onProgram (u : Unspecified) {p : Params} (hp : p.Legal) : (State.resetWith u p).OnProgram :=
  ⟨State.resetWith_fixed u hp, State.resetWith_pipeline u hp, State.resetWith_walk u hp⟩

/-! ### What SEQ does to the capture buffer (41_bus_read.md R217, 42_sequencing.md R254) -/

/-- From RELEASE to the end of the row the whole capture buffer is the row's. -/
theorem State.captured_of_rowDone (hat : s.At 0x12 0x1D) : s.captured = 32 := by
  rw [State.captured, if_neg (by omega), if_neg (by omega), if_neg (by omega), if_neg (by omega), if_pos (by omega)]

/-- A micro-op of the fixed program writes the capture buffer at a sample only, at the next position of the row. -/
theorem capAt_of_programOp (hs : s.Fixed) (h : exec (programOps.getD s.upc.toNat .idle) s = .next t) (k : Fin 32) :
    t.capAt k = if s.AtSample ∧ k.val = s.captured then s.busSample else s.capAt k := by
  by_cases hat : s.AtSample
  · exact (walksOn_of_sample hat h).capAt k
  · have hnosample : ∀ u : Fin 31, u.val ≠ 0x0C → u.val ≠ 0x0F →
        programOps.getD u .idle ∉ [Instr.smpH, .smpL] := by decide
    have hcap : t.cap = s.cap := (exec_writesAsListed h).cap.resolve_right
      (hnosample ⟨_, Nat.lt_succ_of_le hs.inProgram⟩ (by dsimp only; omega) (by dsimp only; omega))
    rw [if_neg fun hnext => hat hnext.1, State.capAt, State.capAt, hcap]

/-- LOOP_WORD goes on with as many positions of the row captured as before. -/
theorem captured_of_loopWord (hat : s.upc.toNat = 0x11) (h : exec (.loopWord 0x07#8) s = .next t) :
    t.captured = s.captured := by
  have hcaptured : s.captured = 2 * s.word.toNat + 2 := by simp [State.captured, hat]
  rw [hcaptured]
  rcases execLoopWord_next.1 h with ⟨hlast, rfl⟩ | ⟨hmore, rfl⟩
  · have hupc : (s.setWord 0#4).advance.upc.toNat = s.upc.toNat + 1 := index_succ_toNat (x := s.upc) (by omega)
    rw [State.captured_of_rowDone (by omega), hlast]
    rfl
  · rw [← Nat.mul_succ, Nat.succ_eq_add_one, ← word_succ_toNat hmore]
    rfl

/-- A position that holds a byte of the row after a micro-op of the fixed program held one before, or has just been
sampled. -/
theorem captured_of_programOp (hs : s.Fixed) (hw : s.Walk)
    (h : exec (programOps.getD s.upc.toNat .idle) s = .next t) {k : Fin 32} (hk : k.val < t.captured) :
    k.val < s.captured ∨ s.AtSample ∧ k.val = s.captured := by
  have hle := hs.inProgram
  by_cases hdone : s.At 0x12 0x1D
  · exact .inl (by rw [State.captured_of_rowDone hdone]; exact k.isLt)
  by_cases hend : s.upc.toNat = 0x1E
  · rw [hend] at h
    obtain rfl := next_eq.1 h
    exact .inl hk
  by_cases hword : s.upc.toNat = 0x11
  · rw [hword] at h
    exact .inl (captured_of_loopWord hword h ▸ hk)
  by_cases hread : s.At 0x05 0x13
  · rw [(walksOn_of_exec hread hword h).captured hw (by omega) hword] at hk
    split_ifs at hk with hat
    · exact (Nat.lt_succ_iff_lt_or_eq.1 hk).imp_right fun hnext => ⟨hat, hnext⟩
    · exact .inl hk
  · have hop := programOps_mem_transmitOps ⟨_, Nat.lt_succ_of_le hle⟩ hread (by dsimp only; omega)
    have hupc : t.upc.toNat ≤ 0x05 := by
      rcases exec_withTransmit hop h with hstay | hnext
      · rw [hstay]
        show s.upc.toNat ≤ 0x05
        omega
      · rw [hnext]
        show (s.upc + 1#6).toNat ≤ 0x05
        rw [index_succ_toNat hle]
        omega
    rw [State.captured, if_pos (by omega)] at hk
    exact absurd hk (Nat.not_lt_zero _)

/-! ### What stays the same between two runs (70_reset_and_hazards.md R322) -/

/-- `t` differs from `s` in the registers R321 leaves unspecified only, and holds the same loaded message. -/
structure State.SameSending (s t : State) : Prop where
  specified : t = s.withUnspecified t
  buffered : s.busy = true → ∀ k, k < s.cursor + s.pending → t.txAt k = s.txAt k

/-- `t` is at the same point of a run as `s` that started with other values in the unspecified registers: nothing that
the micro-program will still read differs. -/
structure State.SameRun (s t : State) : Prop extends s.SameSending t where
  captured : ∀ k : Fin 32, k.val < s.captured → t.capAt k = s.capAt k

/-- What does not depend on the unspecified registers is the same. -/
theorem State.SameSending.same (h : s.SameSending t) {α : Type} (f : State → α)
    (hf : f (s.withUnspecified t) = f s := by rfl) : f t = f s :=
  (congrArg f h.specified).trans hf

theorem State.SameSending.upc (h : s.SameSending t) : t.upc.toNat = s.upc.toNat := h.same fun x => x.upc.toNat

/-- The buses of the two runs give the same byte at a sample: the walk has driven the address and the strobe, and an
unsettled sample is the same draw. -/
theorem State.SameSending.busSample (h : s.SameSending t) (hs : s.Walk) (ht : t.Walk) (hat : s.AtSample) :
    t.busSample = s.busSample := by
  have hupc := h.upc
  have haddr : t.addr = s.addr := h.same State.addr
  have hstb : t.stb = s.stb := by
    rcases hat with hat | hat
    · rw [(ht.strobeHigh (by omega)).1, (hs.strobeHigh (by omega)).1]
    · rw [(ht.strobeLow (by omega)).1, (hs.strobeLow (by omega)).1]
  have hbus : t.busAddress = s.busAddress := by
    rw [State.busAddress, State.busAddress, ht.lowDriven (by omega), ht.midDriven (by omega),
      ht.highDriven (by omega), hs.lowDriven (by omega), hs.midDriven (by omega), hs.highDriven (by omega), haddr]
  have hvalid : t.sampleValid = s.sampleValid := h.same State.sampleValid
  have hrom : t.romWord = s.romWord := h.same State.romWord
  have hdraws : t.draws = s.draws := h.same State.draws
  rw [State.busSample, State.busSample, hvalid, hstb, hbus, hrom, hdraws]

/-- The two runs load the same message. -/
theorem State.SameRun.message (h : s.SameRun t) {sel : Selector} (hhex : sel = .hex → s.upc.toNat = 0x15) :
    t.message sel = s.message sel := by
  cases sel with
  | banner => rfl
  | crlf => rfl
  | hex =>
    have hfull : s.captured = 32 := State.captured_of_rowDone (by have := hhex rfl; omega)
    have htok : t.tok = s.tok := h.same State.tok
    rw [State.message, htok, h.captured _ (by rw [hfull]; exact Fin.isLt _)]
    rfl

/-! ### The two runs step alike -/

/-- On the fixed program a TX_LOAD fills the buffer. -/
theorem State.OnProgram.loadMessage (hs : s.OnProgram) (hat : s.AtLoad) (sel : Selector) :
    loadMessage (s.message sel) s = .next (s.fill (s.message sel)).advance := by
  have hlen := length_message s sel
  obtain ⟨-, -, hcap, -⟩ := hs.fixed.legal
  exact loadMessage_next.2 (.inr (.inr ⟨hs.pipeline.atLoad hat, by omega, rfl⟩))

/-- On the fixed program a TX_PUSH0 puts the message's first unit in flight. -/
theorem State.OnProgram.execTxPush0 (hs : s.OnProgram) (hat : s.AtPush) :
    execTxPush0 s = .next (s.push (s.txAt 0)).advance := by
  obtain ⟨hbusy, -, -, hempty, -⟩ := hs.pipeline.beforePush (.inr hat)
  exact execTxPush0_next.2 (.inr ⟨hbusy, serPush_next.2 (.inl ⟨hs.pipeline.readyAtPush hat, hempty, rfl⟩)⟩)

/-- On the fixed program a notified handler with a unit pending puts the unit at the cursor in flight. -/
theorem State.OnProgram.execTxc_of_pending (hs : s.OnProgram) (hnotified : s.tcPend = true) (hpos : 0 < s.pending) :
    execTxc s = .next (s.push (s.txAt s.cursor)).enterHandler.popUnit.leaveHandler := by
  obtain ⟨hbusy, hready⟩ := hs.pipeline.notified hnotified
  obtain ⟨hsum, -, -, hcap⟩ := hs.pipeline.counts hbusy
  have hempty : s.inflight = none := by
    by_contra hflight
    exact absurd ((hs.pipeline.inFlight hflight).1.symm.trans hnotified) nofun
  exact Machine.execTxc_of_pending hpos (by omega) hready hempty

/-- A micro-op that neither fills the buffer nor reads it leaves the two runs sending the same. -/
theorem State.SameSending.of_exec (h : s.SameSending t)
    (hi : i ∉ [Instr.txLoadBanner, .txLoadHex, .txLoadCrlf, .txPush0, .txc])
    (hu : exec i s = .next u) (hv : exec i t = .next v) : u.SameSending v := by
  have hsent := sameUnits_of_exec hi hu
  have hsent' := sameUnits_of_exec hi hv
  constructor
  case specified =>
    obtain ⟨w, hw⟩ := exec_withUnspecified hi hu t
    rw [← h.specified] at hw
    obtain rfl := next_eq.1 (hw.symm.trans hv)
    rfl
  case buffered =>
    have hwriters : [Instr.txLoadBanner, .txLoadHex, .txLoadCrlf, .txc] ⊆
        [Instr.txLoadBanner, .txLoadHex, .txLoadCrlf, .txPush0, .txc] := by decide
    have hbusy : u.busy = s.busy := (exec_writesAsListed hu).busy.resolve_right fun hmem => hi (hwriters hmem)
    rw [hbusy, hsent.cursor, hsent.pending]
    intro hb k hk
    rw [State.txAt, hsent'.txbuf, State.txAt, hsent.txbuf]
    exact h.buffered hb k hk

/-- A fill makes the buffers the same as far as the message goes. -/
theorem State.SameSending.fill (h : s.SameSending t) {m : List Byte} (hm : 0 < m.length) :
    (s.fill m).advance.SameSending (t.fill m).advance where
  specified := by rw [h.specified]; rfl
  buffered _ k hk := by
    have hk' : k < m.length := by
      have : k < 1 + (m.length - 1) := hk
      omega
    show (t.fill m).txAt k = (s.fill m).txAt k
    rw [State.txAt_fill, State.txAt_fill, List.getD_eq_getElem _ _ hk', List.getD_eq_getElem _ _ hk']

theorem State.SameSending.push (h : s.SameSending t) (b : Byte) :
    (s.push b).advance.SameSending (t.push b).advance where
  specified := by rw [h.specified]; rfl
  buffered := h.buffered

theorem State.SameSending.pop (h : s.SameSending t) (b : Byte) (hpos : 0 < s.pending) :
    (s.push b).enterHandler.popUnit.leaveHandler.SameSending (t.push b).enterHandler.popUnit.leaveHandler where
  specified := by rw [h.specified]; rfl
  buffered hbusy k hk := h.buffered hbusy k (by
    have : k < s.cursor + 1 + (s.pending - 1) := hk
    omega)

/-- The transmitter shifts the same unit out, or raises READY. -/
theorem State.SameSending.of_serStep (h : s.SameSending t) (hu : serStep s = .next u)
    (hv : serStep t = .next v) : u.SameSending v := by
  have hflight : t.inflight = s.inflight := h.same State.inflight
  have hpend : t.tcPend = s.tcPend := h.same State.tcPend
  rcases serStep_next.1 hu with ⟨b, hb, hlatched, rfl⟩ | ⟨b, hb, hquiet, rfl⟩ | ⟨hempty, rfl⟩
  · obtain rfl := next_eq.1 ((serStep_next.2 (.inl ⟨b, hflight.trans hb, hpend.trans hlatched, rfl⟩)).symm.trans hv)
    exact ⟨by rw [h.specified]; rfl, h.buffered⟩
  · obtain rfl :=
      next_eq.1 ((serStep_next.2 (.inr (.inl ⟨b, hflight.trans hb, hpend.trans hquiet, rfl⟩))).symm.trans hv)
    exact ⟨by rw [h.specified]; rfl, h.buffered⟩
  · obtain rfl := next_eq.1 ((serStep_next.2 (.inr (.inr ⟨hflight.trans hempty, rfl⟩))).symm.trans hv)
    exact ⟨by rw [h.specified]; rfl, h.buffered⟩

/-- A step that writes transmit state only leaves the captured bytes. -/
theorem State.SameRun.of_transmit (h : s.SameRun t) (hu : u = s.withTransmit u) (hv : v = t.withTransmit v)
    (hsend : u.SameSending v) : u.SameRun v where
  toSameSending := hsend
  captured := by
    rw [hu, hv]
    exact h.captured

theorem State.SameRun.passTurn (h : s.SameRun t) (m : Agent) : (s.passTurn m).SameRun (t.passTurn m) where
  specified := by rw [h.specified]; rfl
  buffered := h.buffered
  captured := h.captured

/-- The places of the fixed program whose micro-op touches the transmit buffer (42_sequencing.md R246). -/
theorem programOps_touch_buffer : ∀ u : Fin 31,
    programOps.getD u .idle ∉ [Instr.txLoadBanner, .txLoadHex, .txLoadCrlf, .txPush0, .txc] ∨
    (programOps.getD u .idle = .txLoadBanner ∧ u.val = 0x02) ∨ (programOps.getD u .idle = .txLoadHex ∧ u.val = 0x15) ∨
    (programOps.getD u .idle = .txLoadCrlf ∧ u.val = 0x1A) ∨
    (programOps.getD u .idle = .txPush0 ∧ (u.val = 0x04 ∨ u.val = 0x17 ∨ u.val = 0x1C)) := by
  decide

section TwoRuns
variable (h : s.SameRun t) (hs : s.OnProgram) (ht : t.OnProgram)
include h hs ht

/-- Both runs load one message. -/
theorem State.SameRun.sending_of_load {sel : Selector} (hat : s.AtLoad) (hhex : sel = .hex → s.upc.toNat = 0x15)
    (hu : loadMessage (s.message sel) s = .next u) (hv : loadMessage (t.message sel) t = .next v) :
    u.SameSending v := by
  have hupc := h.upc
  have hlen := length_message s sel
  obtain rfl := next_eq.1 ((hs.loadMessage hat sel).symm.trans hu)
  obtain rfl := next_eq.1 ((ht.loadMessage (by omega) sel).symm.trans hv)
  rw [h.message hhex]
  exact h.toSameSending.fill (by omega)

/-- Both runs put one unit in flight first. -/
theorem State.SameRun.sending_of_push (hat : s.AtPush) (hu : execTxPush0 s = .next u) (hv : execTxPush0 t = .next v) :
    u.SameSending v := by
  have hupc := h.upc
  obtain ⟨hbusy, hcursor, -, -, -⟩ := hs.pipeline.beforePush (.inr hat)
  have hunit : t.txAt 0 = s.txAt 0 := h.buffered hbusy 0 (by omega)
  obtain rfl := next_eq.1 ((hs.execTxPush0 hat).symm.trans hu)
  obtain rfl := next_eq.1 ((ht.execTxPush0 (by omega)).symm.trans hv)
  rw [hunit]
  exact h.toSameSending.push _

/-- SEQ does the same in both runs, and captures the same byte where it samples. -/
theorem State.SameRun.of_seqStep (hu : seqStep s = .next u) (hv : seqStep t = .next v) : u.SameRun v := by
  have hupc := h.upc
  rw [seqStep_fixed hs.fixed.store hs.fixed.inProgram] at hu
  rw [seqStep_fixed ht.fixed.store ht.fixed.inProgram] at hv
  constructor
  case toSameSending =>
    rw [hupc] at hv
    rcases programOps_touch_buffer ⟨_, Nat.lt_succ_of_le hs.fixed.inProgram⟩ with
      hi | ⟨hi, hat⟩ | ⟨hi, hat⟩ | ⟨hi, hat⟩ | ⟨hi, hat⟩
    · exact h.toSameSending.of_exec hi hu hv
    all_goals
      dsimp only at hi hat
      rw [hi] at hu hv
    · exact h.sending_of_load hs ht (sel := .banner) (by omega) nofun hu hv
    · exact h.sending_of_load hs ht (sel := .hex) (by omega) (fun _ => hat) hu hv
    · exact h.sending_of_load hs ht (sel := .crlf) (by omega) nofun hu hv
    · exact h.sending_of_push hs ht (by omega) hu hv
  case captured =>
    intro k hk
    have hcaptured : t.captured = s.captured := h.same State.captured
    have hat : t.AtSample ↔ s.AtSample := by omega
    rw [capAt_of_programOp ht.fixed hv, capAt_of_programOp hs.fixed hu, hcaptured]
    simp only [hat]
    split_ifs with hnext
    · exact h.busSample hs.walk ht.walk hnext.1
    · exact h.captured k ((captured_of_programOp hs.fixed hs.walk hu hk).resolve_right hnext)

/-- In both runs the handler puts the same unit in flight, or finds none. -/
theorem State.SameRun.sending_of_execTxc (hnotified : s.tcPend = true) (hu : execTxc s = .next u)
    (hv : execTxc t = .next v) : u.SameSending v := by
  have hpending : t.pending = s.pending := h.same State.pending
  have hcursor : t.cursor = s.cursor := h.same State.cursor
  rcases Nat.eq_zero_or_pos s.pending with hdrained | hpos
  · obtain rfl := next_eq.1 ((execTxc_of_drained hdrained).symm.trans hu)
    obtain rfl := next_eq.1 ((execTxc_of_drained (hpending.trans hdrained)).symm.trans hv)
    exact ⟨by rw [h.specified]; rfl, nofun⟩
  · obtain ⟨hbusy, -⟩ := hs.pipeline.notified hnotified
    have hunit : t.txAt s.cursor = s.txAt s.cursor := h.buffered hbusy _ (by omega)
    obtain rfl := next_eq.1 ((hs.execTxc_of_pending hnotified hpos).symm.trans hu)
    obtain rfl := next_eq.1 ((ht.execTxc_of_pending ((h.same State.tcPend).trans hnotified) (by omega)).symm.trans hv)
    rw [hcursor, hunit]
    exact h.toSameSending.pop _ hpos

/-- At each step the two runs do the same. -/
theorem State.SameRun.of_step (hu : step s = .next u) (hv : step t = .next v) : u.SameRun v := by
  obtain ⟨-, u', rfl, hagent⟩ := step_next hu
  obtain ⟨v', hv', rfl⟩ := step_agentStep hv
  have hmover : t.mover = s.mover := h.same State.mover
  rw [hmover] at hv' ⊢
  refine State.SameRun.passTurn ?_ s.mover
  rcases hagent with ⟨hm, hseq⟩ | ⟨hm, hnotified, -, htxc⟩ | ⟨hm, -, hser⟩ <;> rw [hm] at hv'
  · exact h.of_seqStep hs ht hseq hv'
  · exact h.of_transmit (execTxc_withTransmit htxc) (execTxc_withTransmit hv')
      (h.sending_of_execTxc hs ht hnotified htxc hv')
  · exact h.of_transmit (serStep_withTransmit hser) (serStep_withTransmit hv') (h.toSameSending.of_serStep hser hv')

/-- The two runs stay at the same point. -/
theorem State.SameRun.trace (n : Nat) : (s.trace n).SameRun (t.trace n) := by
  induction n with
  | zero => exact h
  | succ n ih =>
    have hs' := hs.trace n
    have ht' := ht.trace n
    exact ih.of_step hs' ht' hs'.step_after.1 ht'.step_after.1

end TwoRuns

/-- At reset nothing is captured and no message is loaded. -/
theorem State.resetWith_sameRun (u v : Unspecified) (p : Params) :
    (State.resetWith u p).SameRun (State.resetWith v p) where
  specified := rfl
  buffered := nofun
  captured k hk := absurd hk k.val.not_lt_zero

/-- Settles O54: the two runs are at the same point at reset, hence after every number of steps. -/
theorem unspecifiedResetValuesAreUnobservable : Obligations.UnspecifiedResetValuesAreUnobservable := by
  intro u v p n hp
  have hsame := (State.resetWith_sameRun u v p).trace (State.resetWith_onProgram u hp) (State.resetWith_onProgram v hp) n
  exact ⟨(hsame.same State.line).symm, (hsame.same State.upc).symm⟩

end Sys2Proof.Machine
end

section
/-!
The other family: a placed micro-word is what the next step runs (42_sequencing.md R240; 60_exceptions.md R287; log
entries 5, 8 and 9).
-/
namespace Sys2Proof.Machine
variable {s : State} {i : Instr}

/-- A loaded micro-word is read back where it went. -/
theorem State.csWord_loadCs_same (s : State) (u : Index) (w : Word) : (s.loadCs u w).csWord u = w := by
  simp [State.csWord, Memory.read_writeAll]

/-- SEQ moves at its turn, unless the handler is due. -/
theorem State.mover_of_turn_seq (h : s.txcDue = false) (ht : s.turn = .seq) : s.mover = .seq := by
  simp [State.mover, h, ht]

/-- The step from a state made ready for SEQ runs the micro-op of the placed word. -/
theorem step_readySeq {w : Word} (h : decodeFetched w = .ok i) :
    step (s.readySeq w) = thenPassTurn .seq (exec i (s.readySeq w)) := by
  have hfetch : (s.readySeq w).fetchWord = w := s.csWord_loadCs_same s.upc w
  have hmover : (s.readySeq w).mover = .seq :=
    State.mover_of_turn_seq (State.txcDue_eq_false_of_wait Nat.one_pos) rfl
  exact stepRunsTheDecodedInstruction.1 _ i rfl hmover (hfetch.symm ▸ h)

/-- The step from a state made ready for the handler runs TXC. -/
theorem step_readyTxc (s : State) : step s.readyTxc = thenPassTurn .txc (exec .txc s.readyTxc) :=
  stepRunsTheDecodedInstruction.2.1 _ rfl (State.mover_of_txcDue (State.txcDue_of_enabled rfl rfl))

/-- The decoder reads a well-formed micro-op from its own word. -/
theorem decode_encode (hi : i.WellFormed) : decode (encode i) = .ok i := decode_ok.2 ⟨hi, rfl⟩

/-- Placing TXC's word makes the handler due, and any other micro-op's word goes where SEQ fetches next. -/
theorem State.withFetchWord_encode (s : State) (hi : i.WellFormed) :
    s.withFetchWord 16 (encode i).toNat = if i = .txc then s.readyTxc else s.readySeq (encode i) := by
  simp only [State.withFetchWord, wordOfBits_toNat, decode_encode hi, Except.ok.injEq]

/-- Settles O6: TXC is run by the handler, which is due; SEQ fetches any other word and decodes it to its micro-op. -/
theorem placedWordRunsNext : Obligations.PlacedWordRunsNext := by
  intro s i hi
  rw [s.withFetchWord_encode hi]
  by_cases htxc : i = .txc
  · rw [htxc, if_pos rfl, if_pos rfl, step_readyTxc]
  · rw [if_neg htxc, if_neg htxc, step_readySeq (decodeFetched_ok.2 ⟨decode_encode hi, htxc⟩)]

end Sys2Proof.Machine
end
